-- ==== Sys2Proof/Word.lean ====
section
/-! DEFINITION. The byte, the two control ports and the three links of the relay, and the plain
containers that hold one value for each of them. -/

namespace Sys2Proof

/-- One byte of a telegram (R1). -/
abbrev Byte := BitVec 8

/-- A control port: Port A or Port B (spec 00, section 2). -/
inductive Port where
  | a
  | b
  deriving DecidableEq, Repr

/-- The other control port (Table 0-2). -/
def Port.other : Port → Port
  | .a => .b
  | .b => .a

@[simp] theorem Port.other_other (p : Port) : p.other.other = p := by cases p <;> rfl

theorem Port.other_ne (p : Port) : p.other ≠ p := by cases p <;> decide

/-- A serial link of the relay: a control port's, or the Field port's (spec 02). -/
inductive Line where
  | control (p : Port)
  | field
  deriving DecidableEq, Repr

/-- One value for each control port. -/
structure PerPort (α : Type) where
  a : α
  b : α
  deriving DecidableEq, Repr

/-- The value held for port `p`. -/
def PerPort.get {α : Type} (x : PerPort α) : Port → α
  | .a => x.a
  | .b => x.b

/-- `x` with the value of port `p` replaced. -/
def PerPort.set {α : Type} (x : PerPort α) (p : Port) (v : α) : PerPort α :=
  match p with
  | .a => { x with a := v }
  | .b => { x with b := v }

/-- The same value for both ports. -/
def PerPort.both {α : Type} (v : α) : PerPort α := ⟨v, v⟩

@[simp] theorem PerPort.get_set_same {α : Type} (x : PerPort α) (p : Port) (v : α) :
    (x.set p v).get p = v := by cases p <;> rfl

@[simp] theorem PerPort.get_set_other {α : Type} (x : PerPort α) (p : Port) (v : α) :
    (x.set p v).get p.other = x.get p.other := by cases p <;> rfl

theorem PerPort.get_set {α : Type} (x : PerPort α) (p q : Port) (v : α) :
    (x.set p v).get q = if q = p then v else x.get q := by cases p <;> cases q <;> rfl

@[simp] theorem PerPort.set_set {α : Type} (x : PerPort α) (p : Port) (v w : α) :
    (x.set p v).set p w = x.set p w := by cases p <;> rfl

@[simp] theorem PerPort.set_get {α : Type} (x : PerPort α) (p : Port) :
    x.set p (x.get p) = x := by cases p <;> rfl

@[simp] theorem PerPort.get_both {α : Type} (v : α) (p : Port) :
    (PerPort.both v).get p = v := by cases p <;> rfl

/-- One value for each link. -/
structure PerLine (α : Type) where
  control : PerPort α
  field : α
  deriving DecidableEq, Repr

/-- The value held for link `l`. -/
def PerLine.get {α : Type} (x : PerLine α) : Line → α
  | .control p => x.control.get p
  | .field => x.field

/-- `x` with the value of link `l` replaced. -/
def PerLine.set {α : Type} (x : PerLine α) (l : Line) (v : α) : PerLine α :=
  match l with
  | .control p => { x with control := x.control.set p v }
  | .field => { x with field := v }

/-- The same value for all three links. -/
def PerLine.all {α : Type} (v : α) : PerLine α := ⟨.both v, v⟩

@[simp] theorem PerLine.get_set_same {α : Type} (x : PerLine α) (l : Line) (v : α) :
    (x.set l v).get l = v := by cases l <;> simp [PerLine.set, PerLine.get]

theorem PerLine.get_set_of_ne {α : Type} (x : PerLine α) {l m : Line} (h : m ≠ l) (v : α) :
    (x.set l v).get m = x.get m := by
  cases l <;> cases m <;> simp_all [PerLine.set, PerLine.get, PerPort.get_set]

/-- One recognised character: its eight data bits, and whether its stop bit was sampled low (R20). -/
structure Character where
  byte : Byte
  stopError : Bool
  deriving DecidableEq, Repr

/-- What SCREENING takes at a control port (R60): the REQ that waits first is judged, or one of the later
claims at the output unit is taken: an answer handed on is placed, or a reservation handed back is
released. -/
inductive ScreeningStep where
  | judge (p : Port)
  | place (p : Port)
  | release (p : Port)
  deriving DecidableEq, Repr

/-- What SILENCE_TIMER_EXPIRY takes for a control port (R29): its silence timer runs out, or the notice unit
takes the DOWN announcement of that. -/
inductive SilenceStep where
  | expiry (p : Port)
  | notice (p : Port)
  deriving DecidableEq, Repr

/-- What the store's read-back showed at the end of writing (R168). -/
inductive ReadBack where
  | equal
  | mismatch
  deriving DecidableEq, Repr

end Sys2Proof
end

