-- ==== Sys2Proof/Syntax.lean ====
section
/-! DEFINITION. The commands: one constructor for each row of spec/opcode_table.json, in its order.
A command is one happening of the relay, whole and indivisible (spec 95). The table gives no
operands; a constructor carries what its rule leaves to the outside. -/

namespace Sys2Proof

/-- The happenings of the relay, one constructor a row of the table. -/
inductive Instr where
  /-- POWER_ON (R174). -/
  | powerOn
  /-- POWER_FAIL (R174). -/
  | powerFail
  /-- RESET_N_FALL (R174): a low level that is not ignored begins. -/
  | resetNFall
  /-- PIN_RESET (R174). -/
  | pinReset
  /-- START_UP_LOAD_END (R176). -/
  | startUpLoadEnd
  /-- FRAMING_ERROR (R22 to R25): the character `c` on link `l` is the one that is counted. -/
  | framingError (l : Line) (c : Character)
  /-- FRAME_GAP_PAUSE (R20): the pause on link `l` grows longer than the running frame gap. -/
  | frameGapPause (l : Line)
  /-- CONTROL_TELEGRAM (R24, R26): `last` is the second check byte of a well-formed telegram. -/
  | controlTelegram (p : Port) (last : Byte)
  /-- SILENCE_TIMER_EXPIRY (R29): a silence timer runs out, or the notice unit takes the announcement of a
  DOWN (log 21). -/
  | silenceTimerExpiry (x : SilenceStep)
  /-- LEASE_RELEASE_ON_LINK_DOWN (R86). -/
  | leaseReleaseOnLinkDown (p : Port)
  /-- SESSION_END_ON_LINK_DOWN (R149). -/
  | sessionEndOnLinkDown (p : Port)
  /-- FIELD_TELEGRAM (R24, R27): `last` is the second check byte of a well-formed telegram. -/
  | fieldTelegram (last : Byte)
  /-- SCREENING (R60): the REQ of a port that has waited longest is judged, or a later claim of a screening
  is taken at the output unit (log 11). -/
  | screening (x : ScreeningStep)
  /-- HIT_COUNT_RAISE (R40) for the key (station, block). -/
  | hitCountRaise (station : Byte) (block : Nat)
  /-- DISPATCH (R96). -/
  | dispatch
  /-- FIELD_TRANSMISSION_END (R33, R111): the end, or its taking by the transaction unit (log 11). -/
  | fieldTransmissionEnd
  /-- DEADLINE (R116) of the entry with relay tag `tag`. -/
  | deadline (tag : Byte)
  /-- HOLD_TIMER_EXPIRY (R120) of a station. -/
  | holdTimerExpiry (station : Nat)
  /-- METER_REFILL (R73) of a meter. -/
  | meterRefill (meter : Nat)
  /-- LEASE_EXPIRY (R84) of a lease group. -/
  | leaseExpiry (group : Nat)
  /-- ISOLATED_PURGE (R105). -/
  | isolatedPurge
  /-- PORT_SEND_END (R131). -/
  | portSendEnd (p : Port)
  /-- NOTICE_REPEAT_EXPIRY (R136). -/
  | noticeRepeatExpiry (p : Port)
  /-- SESSION_IDLE_EXPIRY (R148). -/
  | sessionIdleExpiry
  /-- UNKNOWN_OP (R9): the end of the execution of an MGT whose code is no operation. This and the
  following management operations take the MGT whose slot was taken first (R143). -/
  | unknownOp
  /-- ECHO (R145). -/
  | echo
  /-- SESSION_OPEN (R146). -/
  | sessionOpen
  /-- SESSION_CLOSE (R147). -/
  | sessionClose
  /-- READ_CONFIG (R156). -/
  | readConfig
  /-- STAGE_CONFIG (R151). -/
  | stageConfig
  /-- STAGE_ADD (R151). -/
  | stageAdd
  /-- STAGE_MODIFY (R151). -/
  | stageModify
  /-- STAGE_DELETE (R151). -/
  | stageDelete
  /-- LIST_READ (R155). -/
  | listRead
  /-- APPLY (R153). -/
  | apply
  /-- DISCARD (R155). -/
  | discard
  /-- COMMIT (R166). -/
  | commit
  /-- SET_LOCK (R166). -/
  | setLock
  /-- ERASE_PROTECTED (R166). -/
  | eraseProtected
  /-- READ_ENTRY (R49). -/
  | readEntry
  /-- READ_BUCKET (R50). -/
  | readBucket
  /-- READ_STATION (R158). -/
  | readStation
  /-- READ_COUNTERS (R159). -/
  | readCounters
  /-- CLEAR_COUNTERS (R160). -/
  | clearCounters
  /-- LEASE_TAKE (R79). -/
  | leaseTake
  /-- LEASE_RENEW (R81). -/
  | leaseRenew
  /-- LEASE_RELEASE (R82). -/
  | leaseRelease
  /-- LEASE_STATUS (R83). -/
  | leaseStatus
  /-- NOTICE_ACK (R138). -/
  | noticeAck
  /-- SET_MODE (R57): the change of the mode; its answer is handed on (log 11). -/
  | setMode
  /-- READ_STORE (R173). -/
  | readStore
  /-- RESTART (R177): the reload. -/
  | restart
  /-- RESTART_HOLD_AND_LEASE_PART (R178). -/
  | restartHoldAndLeasePart
  /-- RESTART_TRANSACTION_PART (R125). -/
  | restartTransactionPart
  /-- RESTART_NOTICE_PART (R141) at the notice state of port `p`. -/
  | restartNoticePart (p : Port)
  /-- RESTART_ANSWER (R179). -/
  | restartAnswer
  /-- STORE_WRITE_END (R168) with the result of the read-back. -/
  | storeWriteEnd (result : ReadBack)
  /-- STORE_LIMIT_EXPIRY (R168). -/
  | storeLimitExpiry
  /-- CHARACTER_RECEIVED (R22 to R24): a character that neither completes a telegram nor is a
  framing error. -/
  | characterReceived (l : Line) (c : Character)
  deriving DecidableEq, Repr

end Sys2Proof
end

