-- ==== Sys2Proof/Decode.lean ====
section
/-! DEFINITION. The command a table word spells. No row of spec/opcode_table.json gives bits
("n_rows_with_fixed": 0), so no word spells a command and every word is refused (log 20). -/

namespace Sys2Proof

/-- The command that an `nbits`-bit word `w` spells by the table's bits: none, since no row has any. -/
def decodeTableWord (_nbits _w : Nat) : Option Instr := none

end Sys2Proof
end

