-- ==== Sys2Proof/Config.lean ====
section
/-! DEFINITION. The fixed numbers of the part, and its one free value. -/

namespace Sys2Proof.Config

/-- REFCLK runs at 32 MHz (Table 0-4). The model's clock counts its periods. -/
abbrev refclkHz : Nat := 32000000

/-- REFCLK periods in one millisecond. -/
abbrev ticksPerMs : Nat := 32000

/-- REFCLK periods in the shortest RESET_N pulse that is not ignored, 10 µs (R174). -/
abbrev resetPulse : Nat := 320

/-- STORE_LIMIT, in milliseconds (R167). -/
abbrev storeLimitMs : Nat := 1500

/-- Places of an answer section (R126). -/
abbrev answerPlaces : Nat := 40

/-- Places of an event section (R129). -/
abbrev eventPlaces : Nat := 16

/-- Places of the hold queue, in all and for one port (R68, R93). -/
abbrev heldPlaces : Nat := 40

/-- Places of the hold queue that one control port may use (R68, R93). -/
abbrev heldPlacesPerPort : Nat := 24

/-- Entries of the transaction table (R108). -/
abbrev entryPlaces : Nat := 16

/-- Items of the change list (R151). -/
abbrev listPlaces : Nat := 32

/-- Management slots (R142). -/
abbrev slotPlaces : Nat := 2

/-- The highest generation an image can carry (R166, check 7). -/
abbrev lastGeneration : Nat := 4294967295

/-- FREE VALUE (log 6; safe). Where one happening hands several claims to one output unit, R128
says only that they "may be placed in either order". The position of a claim among those after it
is this constant, applied to a count of such happenings and to how many claims come after it. It has
no body: nothing can be proved of its value. -/
opaque freePosition : Nat → Nat → Nat

end Sys2Proof.Config
end

