-- ==== Sys2Proof/Machine/State.lean ====
section
/-! DEFINITION. Everything the spec gives the relay as plain data, one group of types for each block
of Table 0-1, the state, and its value after reset. A moment is a count of REFCLK periods on the
model's clock `now`; a timer is the moment at which it runs out, or none while it is stopped. -/

namespace Sys2Proof.Machine

/-! ## Telegrams (spec 01) -/

/-- The six kinds of Table 1-2. -/
inductive Kind where
  | req | rsp | evt | mgt | mga | ntc
  deriving DecidableEq, Repr

/-- The fields of a telegram (Table 1-1); the sync byte, L and the check follow from them. -/
structure Telegram where
  kind : Kind
  flags : BitVec 4
  dest : Byte
  source : Byte
  tag : Byte
  object : BitVec 16
  code : Byte
  data : List Byte
  deriving DecidableEq, Repr

/-- The three ops of Table 1-3. -/
inductive Op where
  | read | write | trigger
  deriving DecidableEq, Repr

/-- The relay statuses of Table 1-5. -/
inductive RelayStatus where
  | noRule | denied | leased | noLease | outOfRange | badLength | badOp | badAddress | noStation
  | rate | queueFull | isolated | timeout | leaseLost | aborted
  deriving DecidableEq, Repr

/-- The management statuses of Table 1-6. -/
inductive MgtStatus where
  | done | noSession | sessionHeld | wrongRole | locked | prot | busy | listFull | applyFailed
  | notFound | badArgument | storeFailed | storeFaulted | slotsFull | unknownOp | held | notHolder
  | listPending
  deriving DecidableEq, Repr

/-! ## Links (spec 02) -/

/-- The assembly state of a link receiver (Table 2-2). In HUNT it holds the discard-run mark, in
HEADER and BODY the bytes of the partial telegram, byte 0 first. -/
inductive Assembly where
  | hunt (runCounted : Bool)
  | header (bytes : List Byte)
  | body (bytes : List Byte)
  deriving DecidableEq, Repr

/-- A link receiver. `pauseFrom` is the moment the running pause is counted from (R20). -/
structure Receiver where
  assembly : Assembly
  pauseFrom : Nat
  deriving DecidableEq, Repr

/-- The link state of a supervisor: DOWN, or UP with the moment its silence timer runs out (R28). -/
inductive LinkState where
  | down
  | up (silence : Nat)
  deriving DecidableEq, Repr

/-- The field transmitter while BUSY (spec 02, section 2.6). `classes` holds the TIMEOUT_CLASS values
live at the end of the transmission, once a change of the configuration is taken after that end (R111,
R123). -/
structure FieldSend where
  tag : Byte
  station : Byte
  telegram : Telegram
  startedAt : Nat
  classes : Option (Vector Nat 4)
  deriving DecidableEq, Repr

/-- The announcement of the end of a field transmission (R33), with its moment and the TIMEOUT_CLASS
values live at that moment (R111). -/
structure FieldEnd where
  tag : Byte
  station : Byte
  ended : Nat
  classes : Vector Nat 4
  deriving DecidableEq, Repr

/-! ## Rules and configuration (spec 03, spec 09 Table 9-3) -/

/-- The mode of the screening unit (R56). -/
inductive Mode where
  | isolated | screening
  deriving DecidableEq, Repr

/-- A set of ops (Table 3-1). -/
structure OpSet where
  read : Bool
  write : Bool
  trigger : Bool
  deriving DecidableEq, Repr

/-- The ports an event is routed to (Table 3-1). -/
inductive Route where
  | none | a | b | both
  deriving DecidableEq, Repr

/-- A rule entry (Table 3-1). Group 0 and meter 0 mean none. -/
structure RuleEntry where
  station : Byte
  block : Nat
  prot : Bool
  limitPresent : Bool
  ops : PerPort OpSet
  group : Nat
  meter : Nat
  timeoutClass : Nat
  route : Route
  limitLow : BitVec 32
  limitHigh : BitVec 32
  hits : Nat
  deriving DecidableEq, Repr

/-- The key of an entry (R36). -/
structure Key where
  station : Byte
  block : Nat
  deriving DecidableEq, Repr

/-- The four ways of a bucket (R35). -/
abbrev Bucket := Vector (Option RuleEntry) 4

/-- The rule table: 128 buckets (R35). -/
abbrev Table := Vector Bucket 128

/-- A table with every way free. -/
def Table.blank : Table := Vector.replicate 128 (Vector.replicate 4 none)

/-- The configuration items (Table 1-8). -/
inductive ConfigItem where
  | rate (l : Line)
  | frameGap
  | silenceTime
  | share (p : Port)
  | timeoutClass (c : Fin 4)
  | quarantineLimit
  | quarantineHold
  | leaseMax
  | sessionIdle
  | noticeMask (p : Port)
  | noticeRepeat
  | protectedWays
  | startMode
  | meterSize (n : Fin 32)
  | meterPeriod (n : Fin 32)
  deriving DecidableEq, Repr

/-- One value for every configuration item, in the unit of Table 1-8. P is `protectedWays` (R35). -/
structure Settings where
  rate : PerLine Nat
  frameGap : Nat
  silenceTime : Nat
  share : PerPort Nat
  timeoutClass : Vector Nat 4
  quarantineLimit : Nat
  quarantineHold : Nat
  leaseMax : Nat
  sessionIdle : Nat
  noticeMask : PerPort (BitVec 10)
  noticeRepeat : Nat
  protectedWays : Nat
  startMode : Mode
  meterSize : Vector Nat 32
  meterPeriod : Vector Nat 32
  deriving DecidableEq, Repr

/-- The defaults of Table 9-3. -/
def Settings.default : Settings where
  rate := .all 1000000
  frameGap := 30
  silenceTime := 500
  share := .both 1
  timeoutClass := #v[20, 100, 500, 2000]
  quarantineLimit := 3
  quarantineHold := 10
  leaseMax := 5000
  sessionIdle := 60
  noticeMask := .both 0x3FF
  noticeRepeat := 1000
  protectedWays := 0
  startMode := .isolated
  meterSize := Vector.replicate 32 16
  meterPeriod := Vector.replicate 32 100

/-! ## Screening, leases, dispatch, transactions (spec 04 to 07) -/

/-- A meter (R72): its tokens and refill timer, and the size and period the bank runs with (log 15). -/
structure Meter where
  size : Nat
  period : Nat
  tokens : Nat
  refill : Option Nat
  deriving DecidableEq, Repr

/-- A held lease group (R77); a free group is none. The duration is in ms. -/
structure Lease where
  holder : Port
  granted : Nat
  expiry : Nat
  deriving DecidableEq, Repr

/-- A held request (Table 4-3). Group 0 means none. -/
structure HeldReq where
  port : Port
  source : Byte
  tag : Byte
  station : Byte
  object : BitVec 16
  op : Op
  data : List Byte
  urgent : Bool
  timeoutClass : Nat
  group : Nat
  deriving DecidableEq, Repr

/-- The state of a transaction entry; WAITING carries its deadline (Table 7-1). -/
inductive EntryState where
  | sending
  | waiting (deadline : Nat)
  deriving DecidableEq, Repr

/-- A transaction entry (Table 7-1). -/
structure Entry where
  relayTag : Byte
  station : Byte
  port : Port
  source : Byte
  tag : Byte
  object : BitVec 16
  timeoutClass : Nat
  state : EntryState
  deriving DecidableEq, Repr

/-- The state of a field station (R118). -/
inductive StationState where
  | idle | busy | quarantined
  deriving DecidableEq, Repr

/-- A station record (Table 7-3). -/
structure Station where
  state : StationState
  streak : Nat
  hold : Option Nat
  timeouts : Nat
  unmatched : Nat
  deriving DecidableEq, Repr

/-- A station record after power-on (R124). -/
def Station.fresh : Station := ⟨.idle, 0, none, 0, 0⟩

/-! ## Output units and notices (spec 08) -/

/-- The section a telegram being sent came from. -/
inductive Section where
  | answer | event
  deriving DecidableEq, Repr

/-- A port transmitter while BUSY. -/
structure Sending where
  part : Section
  telegram : Telegram
  startedAt : Nat
  deriving DecidableEq, Repr

/-- The output unit of a control port. A telegram being sent stays at the head of its section (R130).
`handed` lists the answers of screenings and of SET_MODE that were handed to the unit and are not placed
yet, oldest first; each still holds its reservation (R57, R60, R128). `handedBack` counts the reservations
of absorbed REQs that are not released yet (R60). -/
structure OutputUnit where
  reserved : Nat
  handedBack : Nat
  handed : List Telegram
  answers : List Telegram
  events : List Telegram
  gap : Bool
  sending : Option Sending
  answerRun : Nat
  deriving DecidableEq, Repr

/-- An output unit after a start (R140). -/
def OutputUnit.empty : OutputUnit := ⟨0, 0, [], [], [], false, none, 0⟩

/-- The notice flags of Table 1-11. -/
inductive NoticeFlag where
  | stationQuarantined | stationReturned | leaseLost | peerDown | peerUp | storeDone | storeFailed
  | sessionEnded | eventGap | started
  deriving DecidableEq, Repr

/-- The start causes of Table 1-9. -/
inductive StartCause where
  | powerOn | pin | restart
  deriving DecidableEq, Repr

/-- The notice state of a control port (R134). A start slot of none is the code 0xFF. -/
structure NoticeState where
  flags : BitVec 10
  station : Byte
  group : Nat
  cause : StartCause
  startSlot : Option (Fin 2)
  fallback : Bool
  timer : Option Nat
  seq : Byte
  deriving DecidableEq, Repr

/-! ## Management (spec 09) -/

/-- An MGT in a management slot (R142). -/
structure Mgt where
  port : Port
  source : Byte
  tag : Byte
  code : Byte
  data : List Byte
  deriving DecidableEq, Repr

/-- The roles of Table 1-9. -/
inductive Role where
  | operator | integrator
  deriving DecidableEq, Repr

/-- An item of the change list (spec 09, section 9.3). -/
inductive ListItem where
  | add (e : RuleEntry)
  | modify (e : RuleEntry)
  | delete (k : Key)
  | config (i : ConfigItem) (value : Nat)
  deriving DecidableEq, Repr

/-- The open session with its change list and its idle timer (spec 09, section 9.2). -/
structure Session where
  owner : Port
  role : Role
  list : List ListItem
  idle : Nat
  deriving DecidableEq, Repr

/-- A RESTART whose reload has been taken and whose answer has not: what STARTED will report, and
which parts of R178 have been taken. -/
structure RestartRun where
  startSlot : Option (Fin 2)
  fallback : Bool
  holdDone : Bool
  transactionDone : Bool
  noticeDone : PerPort Bool
  deriving DecidableEq, Repr

/-- The counters of a control port (Table 9-4): 32 bits wide, wrapping. -/
structure PortCounters where
  telegramsIn : BitVec 32
  framingErrors : BitVec 32
  wrongKind : BitVec 32
  overruns : BitVec 32
  duplicates : BitVec 32
  admitted : BitVec 32
  refused : BitVec 32
  eventsDropped : BitVec 32
  deriving DecidableEq, Repr

/-- All counters 0 (R161). -/
def PortCounters.zero : PortCounters := ⟨0, 0, 0, 0, 0, 0, 0, 0⟩

/-- The counters of the Field port (Table 9-4): 32 bits wide, wrapping. -/
structure FieldCounters where
  telegramsIn : BitVec 32
  framingErrors : BitVec 32
  wrongKind : BitVec 32
  unmatched : BitVec 32
  eventsNoRule : BitVec 32
  eventsDropped : BitVec 32
  deriving DecidableEq, Repr

/-- All counters 0 (R161). -/
def FieldCounters.zero : FieldCounters := ⟨0, 0, 0, 0, 0, 0⟩

/-! ## The store (spec 10) -/

/-- What a load restores (Table 10-1): settings, with P, the lock, and the table, hit counts 0. -/
structure Image where
  settings : Settings
  lock : Bool
  table : Table
  deriving DecidableEq, Repr

/-- The blank image (R175). -/
def Image.blank : Image := ⟨.default, false, .blank⟩

/-- The state of an image slot (R163). -/
inductive ImageSlot where
  | erased
  | writing
  | valid (generation : Nat) (image : Image)
  deriving DecidableEq, Repr

/-- The store operations. -/
inductive StoreKind where
  | commit | setLock | eraseProtected
  deriving DecidableEq, Repr

/-- A store operation in flight (R165). `limit` is the moment its limit timer runs out. -/
structure StoreOp where
  kind : StoreKind
  target : Fin 2
  generation : Nat
  port : Port
  source : Byte
  tag : Byte
  image : Image
  limit : Nat
  deriving DecidableEq, Repr

/-- The store controller and its two image slots (R163, R165). -/
structure Store where
  slot0 : ImageSlot
  slot1 : ImageSlot
  op : Option StoreOp
  failures : Nat
  faulted : Bool
  deriving DecidableEq, Repr

/-- The store of a relay as delivered (R163, R165). -/
def Store.delivered : Store := ⟨.erased, .erased, none, 0, false⟩

/-! ## Start (spec 10) -/

/-- Whether the relay runs: RESET_N is low or the supply is out; a start-up load is under way, with
the cause its start will report; or the relay is running (R174, R176). -/
inductive Phase where
  | held
  | loading (cause : StartCause)
  | running
  deriving DecidableEq, Repr

/-! ## Outcomes -/

/-- The reasons a meaning may stop with a fault. There is none: the spec names no happening that stops
the relay. -/
inductive Fault where
  deriving DecidableEq, Repr

/-- The reasons a command may be refused. -/
inductive Refusal where
  /-- Raised by exec's arm of a command that has no meaning yet. Safe: nothing is claimed of it. No
  arm raises it in this model. -/
  | notModelled (mnemonic : String)
  deriving DecidableEq, Repr

/-! ## The state -/

/-- The relay (INVENTORY.md lists the rule of each field). -/
structure State where
  /-- The commands that wait, oldest first (log 1). -/
  pending : List Instr
  /-- The model's clock, in REFCLK periods (log 2). -/
  now : Nat
  /-- How many free orders have been taken (log 6). -/
  choices : Nat
  /-- The supply is in its operating range (R174). -/
  supply : Bool
  /-- RESET_N is low, since this moment (R174). -/
  resetLow : Option Nat
  /-- The supply left its range since the last load began (R174, log 9). -/
  supplyLost : Bool
  phase : Phase
  /-- The running rates of the links, in bit/s (R18). -/
  runningRate : PerLine Nat
  /-- The running frame gap, in bit times (R18). -/
  runningGap : Nat
  rx : PerLine Receiver
  links : PerPort LinkState
  /-- DOWN announcements the lease table has not taken yet (R29). -/
  leaseDown : PerPort Nat
  /-- DOWN announcements the management processor has not taken yet (R29). -/
  sessionDown : PerPort Nat
  /-- DOWN announcements the notice unit has not taken yet (R29). -/
  noticeDown : PerPort Nat
  table : Table
  lock : Bool
  settings : Settings
  /-- Hit raises asked for and not taken yet, oldest first (R40). -/
  hitRaises : List Key
  mode : Mode
  meters : Vector Meter 32
  /-- REQs that hold a reservation and wait for their screening, oldest first (R60). -/
  toScreen : PerPort (List Telegram)
  /-- Entries into ISOLATED announced and not purged yet (R58, R105). -/
  isolatedPurges : Nat
  leases : Vector (Option Lease) 16
  /-- The hold queue, oldest first (R93). -/
  held : List HeldReq
  credits : PerPort Nat
  lastShare : Port
  fieldTx : Option FieldSend
  /-- The end of a field transmission that the transaction unit has not taken yet (R111). -/
  fieldEnd : Option FieldEnd
  /-- The transaction table, in the order the entries were made (R108, R125). -/
  entries : List Entry
  tagCounter : Byte
  stations : Vector Station 62
  outputs : PerPort OutputUnit
  notices : PerPort NoticeState
  /-- The occupied management slots, in the order they were taken (R142). -/
  slots : List Mgt
  session : Option Session
  restart : Option RestartRun
  counters : PerPort PortCounters
  fieldCounters : FieldCounters
  store : Store
  deriving DecidableEq, Repr

/-- The NTC that STARTED places on each port after the first power-on of a relay as delivered (R16,
R141): flags 0x0200, details 0, cause POWER_ON, start slot 0xFF, fallback mark 0, spare 0. -/
def Telegram.firstNtc : Telegram where
  kind := .ntc
  flags := 0
  dest := 0
  source := 63
  tag := 0
  object := 0
  code := 0
  data := [0x02, 0x00, 0, 0, 1, 0xFF, 0, 0]

/-- The relay as delivered (R163), after its first power-on, at the end of the start-up load (R176):
the blank image, with STARTED pending and its NTC being sent on both ports (R141). The moment 0 is
the end of the load (log 5). -/
def State.reset : State where
  pending := []
  now := 0
  choices := 0
  supply := true
  resetLow := none
  supplyLost := false
  phase := .running
  runningRate := .all 1000000
  runningGap := 30
  rx := .all ⟨.hunt false, 0⟩
  links := .both .down
  leaseDown := .both 0
  sessionDown := .both 0
  noticeDown := .both 0
  table := .blank
  lock := false
  settings := .default
  hitRaises := []
  mode := .isolated
  meters := Vector.replicate 32 ⟨16, 100, 16, none⟩
  toScreen := .both []
  isolatedPurges := 0
  leases := Vector.replicate 16 none
  held := []
  credits := .both 1
  lastShare := .b
  fieldTx := none
  fieldEnd := none
  entries := []
  tagCounter := 0
  stations := Vector.replicate 62 .fresh
  outputs := .both ⟨0, 0, [], [], [.firstNtc], false, some ⟨.event, .firstNtc, 0⟩, 0⟩
  notices := .both ⟨0x200, 0, 0, .powerOn, none, false, some (1000 * Config.ticksPerMs), 1⟩
  slots := []
  session := none
  restart := none
  counters := .both .zero
  fieldCounters := .zero
  store := .delivered

end Sys2Proof.Machine
end

