-- ==== Sys2Proof/Machine/Operands.lean ====
section
/-! DEFINITION. Reading and writing telegrams: byte order, the check, every code table of spec 01,
the encodings of management data, the configuration items, and the six telegram forms the relay sends. -/

namespace Sys2Proof.Machine

/-! ## Bytes (R1: most significant byte first) -/

/-- The byte with value `n`, modulo 256. -/
def byteOf (n : Nat) : Byte := BitVec.ofNat 8 n

/-- `n` as two bytes. -/
def be16 (n : Nat) : List Byte := [byteOf (n / 256), byteOf n]

/-- `n` as four bytes. -/
def be32 (n : Nat) : List Byte :=
  [byteOf (n / 16777216), byteOf (n / 65536), byteOf (n / 256), byteOf n]

/-- The number two bytes carry. -/
def ofBe16 (hi lo : Byte) : Nat := hi.toNat * 256 + lo.toNat

/-- The number four bytes carry. -/
def ofBe32 (b3 b2 b1 b0 : Byte) : Nat :=
  b3.toNat * 16777216 + b2.toNat * 65536 + b1.toNat * 256 + b0.toNat

/-! ## The check (R2) -/

/-- Step 3 of R2: one bit into the register. -/
def crcBit (r : BitVec 16) (bit : Bool) : BitVec 16 :=
  if r.msb ^^ bit then (r <<< 1) ^^^ 0x1021 else r <<< 1

/-- One byte into the register, its most significant bit first (R2, step 2). -/
def crcByte (r : BitVec 16) (b : Byte) : BitVec 16 :=
  [7, 6, 5, 4, 3, 2, 1, 0].foldl (fun r i => crcBit r (b.getLsbD i)) r

/-- The check over `bytes` (R2). -/
def crc (bytes : List Byte) : BitVec 16 := bytes.foldl crcByte 0xFFFF

/-! ## Kinds, ops, statuses -/

/-- The kind codes of Table 1-2. -/
def Kind.code : Kind → Nat
  | .req => 1
  | .rsp => 2
  | .evt => 3
  | .mgt => 4
  | .mga => 5
  | .ntc => 6

/-- The kind of a kind code; the others are illegal (R3). -/
def Kind.ofCode : Nat → Option Kind
  | 1 => some .req
  | 2 => some .rsp
  | 3 => some .evt
  | 4 => some .mgt
  | 5 => some .mga
  | 6 => some .ntc
  | _ => none

/-- The maximum L of a kind (Table 1-2). -/
def Kind.maxLength : Kind → Nat
  | .req | .rsp | .evt => 32
  | .mgt | .mga | .ntc => 56

/-- URGENT, bit 0 of the flags (R3). -/
def Telegram.urgent (t : Telegram) : Bool := t.flags.getLsbD 0

/-- The flags of a forwarded EVT that carries GAP, bit 1 (R3, R15). -/
def gapFlags : BitVec 4 := 2

/-- The op codes of Table 1-3. -/
def Op.code : Op → Byte
  | .read => 1
  | .write => 2
  | .trigger => 3

/-- The op a code names; codes 0 and 4 to 255 are not ops (R5). -/
def Op.ofCode (c : Byte) : Option Op :=
  if c = 1 then some .read else if c = 2 then some .write else if c = 3 then some .trigger else none

/-- Whether `n` data bytes meet the requirement of the op (Table 1-3). -/
def Op.lengthOk : Op → Nat → Bool
  | .read, n => n = 0
  | .write, n => 1 ≤ n && n ≤ 32
  | .trigger, n => n ≤ 32

/-- Whether the op needs the lease of its rule's group: WRITE and TRIGGER do (R65). -/
def Op.needsLease : Op → Bool
  | .read => false
  | .write | .trigger => true

/-- Whether the set holds the op. -/
def OpSet.has (s : OpSet) : Op → Bool
  | .read => s.read
  | .write => s.write
  | .trigger => s.trigger

/-- The relay status codes of Table 1-5. -/
def RelayStatus.code : RelayStatus → Byte
  | .noRule => 0x80
  | .denied => 0x81
  | .leased => 0x82
  | .noLease => 0x83
  | .outOfRange => 0x84
  | .badLength => 0x85
  | .badOp => 0x86
  | .badAddress => 0x87
  | .noStation => 0x88
  | .rate => 0x89
  | .queueFull => 0x8A
  | .isolated => 0x8B
  | .timeout => 0x8C
  | .leaseLost => 0x8D
  | .aborted => 0x8E

/-- The management status codes of Table 1-6. -/
def MgtStatus.code : MgtStatus → Byte
  | .done => 0x00
  | .noSession => 0x90
  | .sessionHeld => 0x91
  | .wrongRole => 0x92
  | .locked => 0x93
  | .prot => 0x94
  | .busy => 0x95
  | .listFull => 0x96
  | .applyFailed => 0x97
  | .notFound => 0x98
  | .badArgument => 0x99
  | .storeFailed => 0x9A
  | .storeFaulted => 0x9B
  | .slotsFull => 0x9C
  | .unknownOp => 0x9D
  | .held => 0x9E
  | .notHolder => 0x9F
  | .listPending => 0xA0

/-! ## Telegrams on the wire -/

/-- Bytes 1 to 8 + L of a telegram (Table 1-1). -/
def Telegram.middle (t : Telegram) : List Byte :=
  [byteOf (t.kind.code * 16 + t.flags.toNat), t.dest, t.source, t.tag] ++ be16 t.object.toNat
    ++ [t.code, byteOf t.data.length] ++ t.data

/-- All 11 + L bytes of a telegram, its check computed anew (R1, R2). -/
def Telegram.bytes (t : Telegram) : List Byte :=
  0xA7 :: (t.middle ++ be16 (crc t.middle).toNat)

/-- The length of a telegram on the wire in bits: (11 + L) × 10 (R19). -/
def Telegram.bits (t : Telegram) : Nat := (11 + t.data.length) * 10

/-- The ten bits of a character: start bit low, data least significant bit first, stop bit high (R18). -/
def characterBits (b : Byte) : List Bool :=
  false :: ((List.range 8).map b.getLsbD ++ [true])

/-- The kind that byte 1 names (R3). -/
def kindOfByte (b : Byte) : Option Kind := Kind.ofCode (b.toNat / 16)

/-- The telegram whose 11 + L bytes are `bytes`, when byte 1 names a kind and the check agrees
(R1, R2, R24). -/
def parseTelegram (bytes : List Byte) : Option Telegram :=
  match bytes with
  | _ :: b1 :: dest :: source :: tag :: oh :: ol :: code :: len :: rest =>
    match kindOfByte b1 with
    | none => none
    | some kind =>
      let data := rest.take len.toNat
      if rest.drop len.toNat = be16 (crc ([b1, dest, source, tag, oh, ol, code, len] ++ data)).toNat then
        some ⟨kind, b1.setWidth 4, dest, source, tag, oh ++ ol, code, data⟩
      else none
  | _ => none

/-! ## Objects, stations and keys -/

/-- The block of an object (R4). -/
def blockOf (object : BitVec 16) : Nat := object.toNat / 16

/-- A station byte that names a field station (R4). -/
def isFieldStation (st : Byte) : Bool := 1 ≤ st.toNat && st.toNat ≤ 62

/-- The key of an entry. -/
def RuleEntry.key (e : RuleEntry) : Key := ⟨e.station, e.block⟩

/-- The key a telegram's object lies in, at station `st` (R4). -/
def keyOf (st : Byte) (object : BitVec 16) : Key := ⟨st, blockOf object⟩

/-- Whether a key's values are in range: station 1 to 62 and block 0 to 4095. -/
def Key.inRange (k : Key) : Bool := isFieldStation k.station && k.block ≤ 4095

/-- The bucket of a key: (block + 9 × station) mod 128 (R36). -/
def Key.bucket (k : Key) : Fin 128 :=
  ⟨(k.block + 9 * k.station.toNat) % 128, Nat.mod_lt _ (by decide)⟩

/-- Bytes 0 to 2 of a rule entry and the data of STAGE_DELETE and READ_ENTRY: station and block. -/
def keyBytes (k : Key) : List Byte := k.station :: be16 k.block

/-! ## Code sets of Table 1-9 -/

/-- The port codes used for a holder. -/
def holderCode : Port → Byte
  | .a => 1
  | .b => 2

/-- The mode codes. -/
def Mode.code : Mode → Nat
  | .isolated => 0
  | .screening => 1

/-- The mode a code names. -/
def Mode.ofCode : Nat → Option Mode
  | 0 => some .isolated
  | 1 => some .screening
  | _ => none

/-- The role a code names. -/
def Role.ofCode : Nat → Option Role
  | 1 => some .operator
  | 2 => some .integrator
  | _ => none

/-- The route codes. -/
def Route.code : Route → Byte
  | .none => 0
  | .a => 1
  | .b => 2
  | .both => 3

/-- The route a code names. -/
def Route.ofCode : Nat → Option Route
  | 0 => some .none
  | 1 => some .a
  | 2 => some .b
  | 3 => some .both
  | _ => Option.none

/-- Whether the route names the port (R132, step 3). -/
def Route.includes : Route → Port → Bool
  | .none, _ => false
  | .a, p => p = .a
  | .b, p => p = .b
  | .both, _ => true

/-- The station state codes. -/
def StationState.code : StationState → Byte
  | .idle => 0
  | .busy => 1
  | .quarantined => 2

/-- The slot state codes. -/
def ImageSlot.code : ImageSlot → Byte
  | .erased => 0
  | .writing => 1
  | .valid _ _ => 2

/-- The generation READ_STORE reports: 0 for a slot that is not VALID (R163). -/
def ImageSlot.generation : ImageSlot → Nat
  | .valid g _ => g
  | .erased | .writing => 0

/-- The operation state codes. -/
def StoreKind.code : StoreKind → Byte
  | .commit => 1
  | .setLock => 2
  | .eraseProtected => 3

/-- The start cause codes. -/
def StartCause.code : StartCause → Byte
  | .powerOn => 1
  | .pin => 2
  | .restart => 3

/-- The start slot codes. -/
def startSlotCode : Option (Fin 2) → Byte
  | some i => byteOf i.val
  | none => 0xFF

/-! ## Rule entries in management data (R11, Table 1-10) -/

/-- Byte 4 or 5 of an entry. -/
def OpSet.byte (s : OpSet) : Byte :=
  byteOf (s.read.toNat + 2 * s.write.toNat + 4 * s.trigger.toNat)

/-- The op set of byte 4 or 5; bits 3 to 7 are ignored. -/
def OpSet.ofByte (b : Byte) : OpSet := ⟨b.getLsbD 0, b.getLsbD 1, b.getLsbD 2⟩

/-- The attributes byte. -/
def RuleEntry.attributes (e : RuleEntry) : Byte := byteOf (e.prot.toNat + 2 * e.limitPresent.toNat)

/-- The 22 bytes of an entry as the relay sends them (R11): limits 0 when limit present is clear,
spare bytes 0. -/
def RuleEntry.bytes (e : RuleEntry) : List Byte :=
  keyBytes e.key ++ [e.attributes, e.ops.a.byte, e.ops.b.byte, byteOf e.group, byteOf e.meter,
    byteOf e.timeoutClass, e.route.code]
    ++ be32 (if e.limitPresent then e.limitLow.toNat else 0)
    ++ be32 (if e.limitPresent then e.limitHigh.toNat else 0)
    ++ be16 e.hits ++ [0, 0]

/-- What a protected entry shows while the lock is set: its key, its mark and its hit count (R51). -/
def RuleEntry.masked (e : RuleEntry) : RuleEntry :=
  { e with limitPresent := false, ops := .both ⟨false, false, false⟩, group := 0, meter := 0,
           timeoutClass := 0, route := .none, limitLow := 0, limitHigh := 0 }

/-- The entry as it is read under the lock (R51). -/
def RuleEntry.seenUnder (e : RuleEntry) (lock : Bool) : RuleEntry :=
  if e.prot && lock then e.masked else e

/-- The 13-byte summary of a way (spec 01, section 1.8; R50). -/
def waySummary (lock : Bool) : Option RuleEntry → List Byte
  | none => List.replicate 13 0
  | some e =>
    let v := e.seenUnder lock
    1 :: (keyBytes v.key ++ [v.attributes, v.ops.a.byte, v.ops.b.byte, byteOf v.group, byteOf v.meter,
      byteOf v.timeoutClass, v.route.code] ++ be16 v.hits)

/-- The entry that 22 bytes of a stage operation carry, or none when they are malformed (R11): the hit
count and spare bytes are not read, nor the limits while limit present is clear. -/
def parseEntry : List Byte → Option RuleEntry
  | [st, bh, bl, attr, opsA, opsB, group, meter, cls, route, l3, l2, l1, l0, h3, h2, h1, h0, _, _, _, _] =>
    match Route.ofCode route.toNat with
    | none => none
    | some r =>
      let limited := attr.getLsbD 1
      let low : BitVec 32 := if limited then l3 ++ l2 ++ l1 ++ l0 else 0
      let high : BitVec 32 := if limited then h3 ++ h2 ++ h1 ++ h0 else 0
      if (Key.mk st (ofBe16 bh bl)).inRange && group.toNat ≤ 16 && meter.toNat ≤ 32 && cls.toNat ≤ 3
          && low.toInt ≤ high.toInt then
        some { station := st, block := ofBe16 bh bl, prot := attr.getLsbD 0, limitPresent := limited,
               ops := ⟨OpSet.ofByte opsA, OpSet.ofByte opsB⟩, group := group.toNat,
               meter := meter.toNat, timeoutClass := cls.toNat, route := r, limitLow := low,
               limitHigh := high, hits := 0 }
      else none
  | _ => none

/-- The key that the 3 data bytes of STAGE_DELETE and READ_ENTRY carry, when it is in range. -/
def parseKey : List Byte → Option Key
  | [st, bh, bl] =>
    let k : Key := ⟨st, ofBe16 bh bl⟩
    if k.inRange then some k else none
  | _ => none

/-! ## Configuration items (R10, Table 1-8, Table 9-3) -/

/-- The item number of Table 1-8. -/
def ConfigItem.number : ConfigItem → Nat
  | .rate (.control .a) => 0x0001
  | .rate (.control .b) => 0x0002
  | .rate .field => 0x0003
  | .frameGap => 0x0004
  | .silenceTime => 0x0005
  | .share .a => 0x0006
  | .share .b => 0x0007
  | .timeoutClass c => 0x0008 + c.val
  | .quarantineLimit => 0x000C
  | .quarantineHold => 0x000D
  | .leaseMax => 0x000E
  | .sessionIdle => 0x000F
  | .noticeMask .a => 0x0010
  | .noticeMask .b => 0x0011
  | .noticeRepeat => 0x0012
  | .protectedWays => 0x0013
  | .startMode => 0x0014
  | .meterSize n => 0x0101 + n.val
  | .meterPeriod n => 0x0201 + n.val

/-- The item an item number names, or none when it is not in Table 1-8. -/
def ConfigItem.ofNumber (n : Nat) : Option ConfigItem :=
  match n with
  | 0x0001 => some (.rate (.control .a))
  | 0x0002 => some (.rate (.control .b))
  | 0x0003 => some (.rate .field)
  | 0x0004 => some .frameGap
  | 0x0005 => some .silenceTime
  | 0x0006 => some (.share .a)
  | 0x0007 => some (.share .b)
  | 0x0008 => some (.timeoutClass 0)
  | 0x0009 => some (.timeoutClass 1)
  | 0x000A => some (.timeoutClass 2)
  | 0x000B => some (.timeoutClass 3)
  | 0x000C => some .quarantineLimit
  | 0x000D => some .quarantineHold
  | 0x000E => some .leaseMax
  | 0x000F => some .sessionIdle
  | 0x0010 => some (.noticeMask .a)
  | 0x0011 => some (.noticeMask .b)
  | 0x0012 => some .noticeRepeat
  | 0x0013 => some .protectedWays
  | 0x0014 => some .startMode
  | n =>
    if h : 0x0101 ≤ n ∧ n ≤ 0x0120 then some (.meterSize ⟨n - 0x0101, by omega⟩)
    else if h : 0x0201 ≤ n ∧ n ≤ 0x0220 then some (.meterPeriod ⟨n - 0x0201, by omega⟩)
    else none

/-- Whether a value is a member of the item's range (Table 9-3). -/
def ConfigItem.inRange (i : ConfigItem) (v : Nat) : Bool :=
  match i with
  | .rate _ => [62500, 125000, 250000, 500000, 1000000, 2000000].contains v
  | .frameGap => 12 ≤ v && v ≤ 255
  | .silenceTime => 20 ≤ v && v ≤ 2550 && v % 10 = 0
  | .share _ => 1 ≤ v && v ≤ 15
  | .timeoutClass _ => 2 ≤ v && v ≤ 5000
  | .quarantineLimit => 1 ≤ v && v ≤ 15
  | .quarantineHold => 1 ≤ v && v ≤ 255
  | .leaseMax => 100 ≤ v && v ≤ 60000
  | .sessionIdle => 5 ≤ v && v ≤ 255
  | .noticeMask _ => v ≤ 0x3FF
  | .noticeRepeat => 100 ≤ v && v ≤ 25500 && v % 100 = 0
  | .protectedWays => v ≤ 2
  | .startMode => v ≤ 1
  | .meterSize _ => 1 ≤ v && v ≤ 255
  | .meterPeriod _ => 1 ≤ v && v ≤ 65535

/-- The value of an item, in the unit of Table 1-8. -/
def Settings.get (c : Settings) : ConfigItem → Nat
  | .rate l => c.rate.get l
  | .frameGap => c.frameGap
  | .silenceTime => c.silenceTime
  | .share p => c.share.get p
  | .timeoutClass n => c.timeoutClass[n]
  | .quarantineLimit => c.quarantineLimit
  | .quarantineHold => c.quarantineHold
  | .leaseMax => c.leaseMax
  | .sessionIdle => c.sessionIdle
  | .noticeMask p => (c.noticeMask.get p).toNat
  | .noticeRepeat => c.noticeRepeat
  | .protectedWays => c.protectedWays
  | .startMode => c.startMode.code
  | .meterSize n => c.meterSize[n]
  | .meterPeriod n => c.meterPeriod[n]

/-- The settings with one item given a value. -/
def Settings.put (c : Settings) (i : ConfigItem) (v : Nat) : Settings :=
  match i with
  | .rate l => { c with rate := c.rate.set l v }
  | .frameGap => { c with frameGap := v }
  | .silenceTime => { c with silenceTime := v }
  | .share p => { c with share := c.share.set p v }
  | .timeoutClass n => { c with timeoutClass := c.timeoutClass.set n v }
  | .quarantineLimit => { c with quarantineLimit := v }
  | .quarantineHold => { c with quarantineHold := v }
  | .leaseMax => { c with leaseMax := v }
  | .sessionIdle => { c with sessionIdle := v }
  | .noticeMask p => { c with noticeMask := c.noticeMask.set p (BitVec.ofNat 10 v) }
  | .noticeRepeat => { c with noticeRepeat := v }
  | .protectedWays => { c with protectedWays := v }
  | .startMode => { c with startMode := (Mode.ofCode v).getD c.startMode }
  | .meterSize n => { c with meterSize := c.meterSize.set n v }
  | .meterPeriod n => { c with meterPeriod := c.meterPeriod.set n v }

/-- The record LIST_READ returns for an item (spec 01, section 1.8). -/
def ListItem.bytes : ListItem → List Byte
  | .add e => 1 :: e.bytes
  | .modify e => 2 :: e.bytes
  | .delete k => 3 :: keyBytes k
  | .config i v => 4 :: (be16 i.number ++ be32 v)

/-! ## The telegrams the relay sends (spec 01, section 1.9) -/

/-- A field REQ (R12). -/
def HeldReq.fieldReq (r : HeldReq) (relayTag : Byte) : Telegram :=
  ⟨.req, 0, r.station, 63, relayTag, r.object, r.op.code, r.data⟩

/-- A forwarded RSP (R13). -/
def Entry.forward (e : Entry) (rsp : Telegram) : Telegram :=
  ⟨.rsp, 0, e.source, rsp.source, e.tag, rsp.object, rsp.code, rsp.data⟩

/-- A relay RSP (R14) to a REQ just received. -/
def Telegram.refusal (req : Telegram) (st : RelayStatus) : Telegram :=
  ⟨.rsp, 0, req.source, req.dest, req.tag, req.object, st.code, []⟩

/-- A relay RSP (R14) to a held request. -/
def HeldReq.relayRsp (r : HeldReq) (st : RelayStatus) : Telegram :=
  ⟨.rsp, 0, r.source, r.station, r.tag, r.object, st.code, []⟩

/-- A relay RSP (R14) to a transaction. -/
def Entry.relayRsp (e : Entry) (st : RelayStatus) : Telegram :=
  ⟨.rsp, 0, e.source, e.station, e.tag, e.object, st.code, []⟩

/-- A forwarded EVT (R15). -/
def forwardEvt (evt : Telegram) (gap : Bool) : Telegram :=
  { evt with flags := if gap then gapFlags else 0 }

/-- An NTC (R16) for a port's notice state and mask. -/
def NoticeState.ntc (n : NoticeState) (mask : BitVec 10) : Telegram :=
  ⟨.ntc, 0, 0, 63, n.seq, 0, 0,
    be16 (n.flags &&& mask).toNat ++ [n.station, byteOf n.group, n.cause.code,
      startSlotCode n.startSlot, byteOf n.fallback.toNat, 0]⟩

/-- An MGA (R17) with the source, tag and code of its MGT. -/
def mga (source tag code : Byte) (st : MgtStatus) (data : List Byte) : Telegram :=
  ⟨.mga, 0, source, 63, tag, code.setWidth 16, st.code, data⟩

/-- The answer to an MGT in a slot. -/
def Mgt.answer (m : Mgt) (st : MgtStatus) (data : List Byte) : Telegram :=
  mga m.source m.tag m.code st data

/-- The MGT a telegram of port `p` brings. -/
def Telegram.toMgt (t : Telegram) (p : Port) : Mgt := ⟨p, t.source, t.tag, t.code, t.data⟩

/-- The codes of the management operations that have an image written (Table 1-7). -/
def StoreKind.opCode : StoreKind → Byte
  | .commit => 0x0C
  | .setLock => 0x0D
  | .eraseProtected => 0x0E

end Sys2Proof.Machine
end

