-- ==== Sys2Proof/Machine/Flags.lean ====
section
/-! DEFINITION. The notice flags (Table 1-11, R134) and the counters (Table 9-4), as operations on the
records that hold them. -/

namespace Sys2Proof.Machine

/-! ## Notice flags -/

/-- The bit numbers of Table 1-11. -/
def NoticeFlag.bit : NoticeFlag → Nat
  | .stationQuarantined => 0
  | .stationReturned => 1
  | .leaseLost => 2
  | .peerDown => 3
  | .peerUp => 4
  | .storeDone => 5
  | .storeFailed => 6
  | .sessionEnded => 7
  | .eventGap => 8
  | .started => 9

/-- Whether the flag is in a flag set. -/
def NoticeFlag.isIn (f : NoticeFlag) (set : BitVec 10) : Bool := set.getLsbD f.bit

/-- The notice state with the flag pending. -/
def NoticeState.raise (n : NoticeState) (f : NoticeFlag) : NoticeState :=
  { n with flags := n.flags ||| BitVec.twoPow 10 f.bit }

/-- The notice state with every flag of `set` clear (R138). -/
def NoticeState.clear (n : NoticeState) (set : BitVec 10) : NoticeState :=
  { n with flags := n.flags &&& ~~~set }

/-- What a request writes beside its flag (R135, Table 8-1). -/
inductive Detail where
  | nothing
  | station (st : Byte)
  | group (g : Nat)
  | start (cause : StartCause) (slot : Option (Fin 2)) (fallback : Bool)
  deriving DecidableEq, Repr

/-- The notice state with the detail fields written. -/
def NoticeState.note (n : NoticeState) : Detail → NoticeState
  | .nothing => n
  | .station st => { n with station := st }
  | .group g => { n with group := g }
  | .start c slot fb => { n with cause := c, startSlot := slot, fallback := fb }

/-! ## Counters -/

/-- The counters of a control port (Table 9-4). -/
inductive PortCounter where
  | telegramsIn | framingErrors | wrongKind | overruns | duplicates | admitted | refused
  | eventsDropped
  deriving DecidableEq, Repr

/-- The counter, raised by 1 and wrapping (R159). -/
def PortCounters.raise (c : PortCounters) : PortCounter → PortCounters
  | .telegramsIn => { c with telegramsIn := c.telegramsIn + 1 }
  | .framingErrors => { c with framingErrors := c.framingErrors + 1 }
  | .wrongKind => { c with wrongKind := c.wrongKind + 1 }
  | .overruns => { c with overruns := c.overruns + 1 }
  | .duplicates => { c with duplicates := c.duplicates + 1 }
  | .admitted => { c with admitted := c.admitted + 1 }
  | .refused => { c with refused := c.refused + 1 }
  | .eventsDropped => { c with eventsDropped := c.eventsDropped + 1 }

/-- The counters of the Field port (Table 9-4). -/
inductive FieldCounter where
  | telegramsIn | framingErrors | wrongKind | unmatched | eventsNoRule | eventsDropped
  deriving DecidableEq, Repr

/-- The counter, raised by 1 and wrapping (R159). -/
def FieldCounters.raise (c : FieldCounters) : FieldCounter → FieldCounters
  | .telegramsIn => { c with telegramsIn := c.telegramsIn + 1 }
  | .framingErrors => { c with framingErrors := c.framingErrors + 1 }
  | .wrongKind => { c with wrongKind := c.wrongKind + 1 }
  | .unmatched => { c with unmatched := c.unmatched + 1 }
  | .eventsNoRule => { c with eventsNoRule := c.eventsNoRule + 1 }
  | .eventsDropped => { c with eventsDropped := c.eventsDropped + 1 }

/-- A 16-bit count raised by 1, staying at 65535 (R40, R114, R116). -/
def raise16 (n : Nat) : Nat := if n < 65535 then n + 1 else 65535

/-- A streak raised by 1, staying at 15 (R116). -/
def raiseStreak (n : Nat) : Nat := if n < 15 then n + 1 else 15

/-- The 32 bytes of a control port's counter block, in the order of R10. -/
def PortCounters.bytes (c : PortCounters) : List Byte :=
  [c.telegramsIn, c.framingErrors, c.wrongKind, c.overruns, c.duplicates, c.admitted, c.refused,
    c.eventsDropped].flatMap fun x => be32 x.toNat

/-- The 24 bytes of the Field port's counter block, in the order of R10. -/
def FieldCounters.bytes (c : FieldCounters) : List Byte :=
  [c.telegramsIn, c.framingErrors, c.wrongKind, c.unmatched, c.eventsNoRule, c.eventsDropped].flatMap
    fun x => be32 x.toNat

end Sys2Proof.Machine
end

