-- ==== Sys2Proof/Machine/Ops.lean ====
section
/-! DEFINITION. The operations that the meanings share: the clock, free orders, the output units, the
notice unit, the counters, the rule table, the leases, stations and meters, purges of the hold queue,
the image slots, and the frame of a management operation. -/

namespace Sys2Proof.Machine

/-! ## Clock and running (log 2, log 3) -/

/-- `n` milliseconds in REFCLK periods. -/
def msTicks (n : Nat) : Nat := n * Config.ticksPerMs

/-- The bit time of a rate in REFCLK periods: the divisor of Table 2-1 (R18). -/
def bitTicks (rate : Nat) : Nat := Config.refclkHz / rate

/-- The moment `n` ms from now. -/
def State.inMs (s : State) (n : Nat) : Nat := s.now + msTicks n

/-- The clock moved up to the moment `t`, if it is not there yet (log 3). -/
def State.reach (s : State) (t : Nat) : State := { s with now := max s.now t }

/-- The time from the clock to the moment `t`, in whole ms rounded up (R78, R118). -/
def State.msUntil (s : State) (t : Nat) : Nat :=
  (t - s.now + (Config.ticksPerMs - 1)) / Config.ticksPerMs

/-- One REFCLK period passes (log 2). -/
def State.tick (s : State) : State := { s with now := s.now + 1 }

/-- A happening of the running relay. While RESET_N is low, the supply is out or a load is under way,
the relay takes no happening (R174). -/
def State.whenRunning (s : State) (f : State → State) : Host.Outcome State Fault Refusal :=
  match s.phase with
  | .running => .next (f s)
  | .held | .loading _ => .next s

/-! ## Free orders (R128, log 6) -/

/-- Some order of the claims: each stands at a free position among those after it. -/
def freeOrder {α : Type} (n : Nat) : List α → List α
  | [] => []
  | c :: cs => (freeOrder n cs).insertIdx (Config.freePosition n cs.length % (cs.length + 1)) c

/-- The claims taken in a free order. A claim that stands alone uses no free value. -/
def State.inSomeOrder (s : State) (claims : List (State → State)) : State :=
  match claims with
  | [] => s
  | [c] => c s
  | cs => (freeOrder s.choices cs).foldl (fun t c => c t) { s with choices := s.choices + 1 }

/-! ## Counters -/

/-- A counter of control port `p` is raised. -/
def State.count (s : State) (p : Port) (c : PortCounter) : State :=
  { s with counters := s.counters.set p ((s.counters.get p).raise c) }

/-- A counter of the Field port is raised. -/
def State.countField (s : State) (c : FieldCounter) : State :=
  { s with fieldCounters := s.fieldCounters.raise c }

/-! ## Output units (spec 08) -/

/-- The used count of the answer section: placed answers plus reservations (R126). -/
def OutputUnit.used (o : OutputUnit) : Nat := o.answers.length + o.reserved

/-- The choice of the port transmitter, made only while it is IDLE (R130). -/
def OutputUnit.choose (now : Nat) (o : OutputUnit) : OutputUnit :=
  match o.sending with
  | some _ => o
  | none =>
    match o.answers, o.events with
    | [], [] => o
    | [], e :: _ => { o with sending := some ⟨.event, e, now⟩, answerRun := 0 }
    | a :: _, [] => { o with sending := some ⟨.answer, a, now⟩, answerRun := 0 }
    | a :: _, e :: _ =>
      if 4 ≤ o.answerRun then { o with sending := some ⟨.event, e, now⟩, answerRun := 0 }
      else { o with sending := some ⟨.answer, a, now⟩, answerRun := o.answerRun + 1 }

/-- A run of answers joins the tail of the answer section, and its reservations end (R128). -/
def OutputUnit.join (now : Nat) (run : List Telegram) (o : OutputUnit) : OutputUnit :=
  { o with reserved := o.reserved - run.length, answers := o.answers ++ run }.choose now

/-- A run of answers is placed, after every answer handed to the unit earlier (R128). A run of none
places nothing (R102). -/
def OutputUnit.place (now : Nat) (run : List Telegram) (o : OutputUnit) : OutputUnit :=
  if run.isEmpty then o else { o with handed := [] }.join now (o.handed ++ run)

/-- The answer that was handed on first is placed (R57, R60, R128). -/
def OutputUnit.placeOldest (now : Nat) (o : OutputUnit) : OutputUnit :=
  match o.handed with
  | [] => o
  | t :: rest => { o with handed := rest }.join now [t]

/-- A reservation that was handed back is released (R60, R128). -/
def OutputUnit.releaseOne (o : OutputUnit) : OutputUnit :=
  match o.handedBack with
  | 0 => o
  | n + 1 => { o with handedBack := n, reserved := o.reserved - 1 }

/-- A telegram joins the event section (R129). -/
def OutputUnit.placeEvent (now : Nat) (t : Telegram) (o : OutputUnit) : OutputUnit :=
  { o with events := o.events ++ [t] }.choose now

/-- The end of a sending: the telegram leaves its section and the next choice is made (R131). -/
def OutputUnit.endSending (now : Nat) (o : OutputUnit) : OutputUnit :=
  match o.sending with
  | none => o
  | some x =>
    match x.part with
    | .answer => { o with answers := o.answers.tail, sending := none }.choose now
    | .event => { o with events := o.events.tail, sending := none }.choose now

/-- The output unit of port `p`. -/
def State.output (s : State) (p : Port) : OutputUnit := s.outputs.get p

/-- The output unit of port `p` replaced. -/
def State.withOutput (s : State) (p : Port) (o : OutputUnit) : State :=
  { s with outputs := s.outputs.set p o }

/-- A run of answers handed to port `p` as one claim (R128). -/
def State.answer (p : Port) (run : List Telegram) (s : State) : State :=
  s.withOutput p ((s.output p).place s.now run)

/-- An answer is handed to the output unit of port `p`, and placed by a later happening (R57, R60). -/
def State.handOn (s : State) (p : Port) (t : Telegram) : State :=
  s.withOutput p { s.output p with handed := (s.output p).handed ++ [t] }

/-- A reservation is handed back to the output unit of port `p` (R60, R61). -/
def State.handBack (s : State) (p : Port) : State :=
  s.withOutput p { s.output p with handedBack := (s.output p).handedBack + 1 }

/-- The claim of a run; no answer makes no claim (R102: it "places no answer"). -/
def runClaim (p : Port) (run : List Telegram) : List (State → State) :=
  if run.isEmpty then [] else [State.answer p run]

/-- A reservation is taken (R127). -/
def State.reserve (s : State) (p : Port) : State :=
  s.withOutput p { s.output p with reserved := (s.output p).reserved + 1 }

/-! ## Notice unit (R134 to R137) -/

/-- The notice state of port `p`. -/
def State.notice (s : State) (p : Port) : NoticeState := s.notices.get p

/-- The notice state of port `p` replaced. -/
def State.withNotice (s : State) (p : Port) (n : NoticeState) : State :=
  { s with notices := s.notices.set p n }

/-- The notice mask of port `p`: the live item NOTICE_MASK_A or NOTICE_MASK_B (R134). -/
def State.mask (s : State) (p : Port) : BitVec 10 := s.settings.noticeMask.get p

/-- Whether an enabled flag is pending on port `p`. -/
def State.announces (s : State) (p : Port) : Bool := (s.notice p).flags &&& s.mask p != 0

/-- The repeat timer of port `p` is started afresh with NOTICE_REPEAT (R136). -/
def State.startRepeat (s : State) (p : Port) : State :=
  s.withNotice p { s.notice p with timer := some (s.inMs s.settings.noticeRepeat) }

/-- An NTC is offered on port `p` (R137): placed with the sequence as its tag, which then advances, or
skipped when the event section is full. None is formed while no enabled flag is pending. -/
def State.offerNtc (s : State) (p : Port) : State :=
  if s.announces p then
    let t := s.startRepeat p
    if (t.output p).events.length < Config.eventPlaces then
      (t.withOutput p ((t.output p).placeEvent t.now ((t.notice p).ntc (t.mask p)))).withNotice p
        { t.notice p with seq := (t.notice p).seq + 1 }
    else t
  else s

/-- A request to set flag `f` on port `p`, with its detail (R135). -/
def State.request (f : NoticeFlag) (d : Detail) (p : Port) (s : State) : State :=
  let n := (s.notice p).note d
  if f.isIn n.flags then s.withNotice p n
  else
    let t := s.withNotice p (n.raise f)
    if f.isIn (s.mask p) then t.offerNtc p else t

/-- A request on both ports: two happenings at two notice states, whose order does not matter (R134). -/
def State.requestBoth (f : NoticeFlag) (d : Detail) (s : State) : State :=
  (s.request f d .a).request f d .b

/-! ## Rule table (spec 03) -/

/-- The way of a bucket that holds the key, with its entry (R39). -/
def Bucket.find (b : Bucket) (k : Key) : Option (Fin 4 × RuleEntry) :=
  ([0, 1, 2, 3] : List (Fin 4)).findSome? fun w =>
    match b[w] with
    | some e => if e.key = k then some (w, e) else none
    | none => none

/-- A lookup: the key's bucket and no other (R39). -/
def Table.lookup (t : Table) (k : Key) : Option (Fin 4 × RuleEntry) := Bucket.find t[k.bucket] k

/-- One way of the table replaced. -/
def Table.setWay (t : Table) (b : Fin 128) (w : Fin 4) (v : Option RuleEntry) : Table :=
  t.set b (t[b].set w v)

/-- The table with every entry mapped; `f e = none` frees the way. -/
def Table.mapEntries (t : Table) (f : RuleEntry → Option RuleEntry) : Table :=
  t.map fun b => b.map fun v => v.bind f

/-- The table an image holds: every entry with hit count 0 (R164, R47). -/
def Table.withoutHits (t : Table) : Table := t.mapEntries fun e => some { e with hits := 0 }

/-- The table without its protected entries, the others at their ways (R52). -/
def Table.withoutProtected (t : Table) : Table := t.mapEntries fun e => if e.prot then none else some e

/-! ## Leases, stations, meters -/

/-- Lease group `g`, 1 to 16; other numbers name no group (R77). -/
def State.lease (s : State) : Nat → Option Lease
  | 0 => none
  | k + 1 => (s.leases[k]?).join

/-- Lease group `g` replaced. -/
def State.withLease (s : State) (g : Nat) (l : Option Lease) : State :=
  match g with
  | 0 => s
  | k + 1 => { s with leases := s.leases.setIfInBounds k l }

/-- Whether port `p` holds group `g`. -/
def State.holds (s : State) (p : Port) (g : Nat) : Bool :=
  match s.lease g with
  | some l => l.holder = p
  | none => false

/-- The record of station `n`, 1 to 62 (R118). -/
def State.station (s : State) : Nat → Station
  | 0 => .fresh
  | k + 1 => (s.stations[k]?).getD .fresh

/-- The record of station `n` replaced. -/
def State.withStation (s : State) (n : Nat) (r : Station) : State :=
  match n with
  | 0 => s
  | k + 1 => { s with stations := s.stations.setIfInBounds k r }

/-- A station record as a return leaves it: IDLE, streak 0, hold timer stopped (R119, R120). -/
def Station.returned (r : Station) : Station := { r with state := .idle, streak := 0, hold := none }

/-- Meter `n`, 1 to 32; other numbers name no meter (R72). -/
def State.meter (s : State) : Nat → Option Meter
  | 0 => none
  | k + 1 => s.meters[k]?

/-- Meter `n` replaced. -/
def State.withMeter (s : State) (n : Nat) (m : Meter) : State :=
  match n with
  | 0 => s
  | k + 1 => { s with meters := s.meters.setIfInBounds k m }

/-- The meter bank full, every refill timer stopped, for a configuration (R76). -/
def metersFor (c : Settings) : Vector Meter 32 :=
  Vector.ofFn fun n => ⟨c.meterSize[n], c.meterPeriod[n], c.meterSize[n], none⟩

/-! ## The hold queue and its purges (R102) -/

/-- The answers of one purge to port `p`, in order of admission (R102). -/
def purgeRun (held : List HeldReq) (sel : HeldReq → Bool) (st : RelayStatus) (p : Port) : List Telegram :=
  (held.filter fun r => sel r && r.port = p).map (·.relayRsp st)

/-- The selected requests leave the hold queue; the others keep their order (R94, R102). -/
def State.dropHeld (s : State) (sel : HeldReq → Bool) : State :=
  { s with held := s.held.filter fun r => !sel r }

/-- Whether a loss of group `g` by port `p` purges the request (R88). -/
def HeldReq.lostWith (p : Port) (g : Nat) (r : HeldReq) : Bool :=
  r.port = p && r.op.needsLease && r.group = g

/-- A whole purge with nothing else handed on in its happening (R105, R106). -/
def State.purge (s : State) (sel : HeldReq → Bool) (st : RelayStatus) : State :=
  let t := s.dropHeld sel
  (t.inSomeOrder (runClaim .a (purgeRun s.held sel st .a))).inSomeOrder
    (runClaim .b (purgeRun s.held sel st .b))

/-! ## Image slots (R163, R175) -/

/-- Slot `i`. -/
def Store.slot (st : Store) (i : Fin 2) : ImageSlot := if i = 0 then st.slot0 else st.slot1

/-- Slot `i` replaced. -/
def Store.withSlot (st : Store) (i : Fin 2) (x : ImageSlot) : Store :=
  if i = 0 then { st with slot0 := x } else { st with slot1 := x }

/-- The newest VALID image: its slot, its generation and the image. Slot 0 on equal generations (R163). -/
def Store.newest (st : Store) : Option (Fin 2 × Nat × Image) :=
  match st.slot0, st.slot1 with
  | .valid g0 i0, .valid g1 i1 => if g0 < g1 then some (1, g1, i1) else some (0, g0, i0)
  | .valid g0 i0, .erased | .valid g0 i0, .writing => some (0, g0, i0)
  | .erased, .valid g1 i1 | .writing, .valid g1 i1 => some (1, g1, i1)
  | .erased, .erased | .erased, .writing | .writing, .erased | .writing, .writing => none

/-- What a load finds: the start slot, the image, and the fallback mark (R175). -/
structure Selection where
  slot : Option (Fin 2)
  image : Image
  fallback : Bool
  deriving DecidableEq, Repr

/-- The selection of R175. The selected slot is VALID, so "a slot other than the selected one is
WRITING" is "some slot is WRITING". -/
def Store.select (st : Store) : Selection :=
  let fallback := st.slot0 = .writing || st.slot1 = .writing
  match st.newest with
  | some (i, _, image) => ⟨some i, image, fallback⟩
  | none => ⟨none, .blank, fallback⟩

/-! ## Management operations (R143, R144) -/

/-- The end of the execution of the MGT whose slot was taken first, when its code is one that
`takes` accepts. While a RESTART runs the processor executes nothing else (spec 10, section 10.6). -/
def State.whenMgt (s : State) (takes : Byte → Bool) (f : Mgt → State → State) :
    Host.Outcome State Fault Refusal :=
  s.whenRunning fun s =>
    match s.restart, s.slots with
    | none, m :: _ => if takes m.code then f m s else s
    | _, _ => s

/-- The first slot is freed (R143). -/
def State.freeSlot (s : State) : State := { s with slots := s.slots.tail }

/-- The operation of `m` ends with an answer: its slot is freed and its MGA placed (R143, R17). -/
def State.finish (s : State) (m : Mgt) (st : MgtStatus) (data : List Byte) : State :=
  s.freeSlot.answer m.port [m.answer st data]

/-- An operation of code `code` whose MGT carries `len` data bytes; another L is answered BAD_ARGUMENT
before any other judgement (R9). -/
def State.whenOp (s : State) (code : Byte) (len : Nat) (f : Mgt → State → State) :
    Host.Outcome State Fault Refusal :=
  s.whenMgt (· = code) fun m s =>
    if m.data.length = len then f m s else s.finish m .badArgument []

/-- The session judgement (R144): NO_SESSION, SESSION_HELD, or on with the owner's session. -/
def State.whenOwner (s : State) (m : Mgt) (f : Session → State) : State :=
  match s.session with
  | none => s.finish m .noSession []
  | some x => if x.owner = m.port then f x else s.finish m .sessionHeld []

/-- The session replaced. -/
def State.withSession (s : State) (x : Option Session) : State := { s with session := x }

/-! ## Transmit lines (R18, R19) -/

/-- The level of a transmit line `elapsed` REFCLK periods into the sending of `t`, at a bit time of
`bit` periods: the characters of the telegram back to back, high at rest. -/
def Telegram.level (t : Telegram) (bit elapsed : Nat) : Bool :=
  ((t.bytes.flatMap characterBits)[elapsed / bit]?).getD true

/-- The level of a link's transmit line: TXA, TXB or TXF. It is high while nothing is sent, and while
the relay does not run (R18, R19, R174). -/
def State.txLevel (s : State) (l : Line) : Bool :=
  let bit := bitTicks (s.runningRate.get l)
  match s.phase, l with
  | .running, .control p =>
    match (s.output p).sending with
    | some x => x.telegram.level bit (s.now - x.startedAt)
    | none => true
  | .running, .field =>
    match s.fieldTx with
    | some x => x.telegram.level bit (s.now - x.startedAt)
    | none => true
  | .held, _ => true
  | .loading _, _ => true

/-- The moment a sending of `t` on link `l`, begun at `startedAt`, ends (R19, R32, R131). -/
def State.sendEnd (s : State) (l : Line) (t : Telegram) (startedAt : Nat) : Nat :=
  startedAt + t.bits * bitTicks (s.runningRate.get l)

/-- The field transmitter as a change of the configuration leaves it: of a transmission that has ended
by the clock, the TIMEOUT_CLASS values of its end are kept, since "a TIMEOUT_CLASS item changed by APPLY
after the end applies to later entries only" (R111, log 3). -/
def State.keepClasses (s : State) : Option FieldSend :=
  s.fieldTx.map fun x =>
    if x.classes.isNone && s.sendEnd .field x.telegram x.startedAt < s.now then
      { x with classes := some s.settings.timeoutClass }
    else x

end Sys2Proof.Machine
end

