-- ==== Sys2Proof/Machine/ChangeList.lean ====
section
/-! DEFINITION. The change list: staging, LIST_READ, DISCARD and APPLY (spec 09, section 9.3, and the
table items of spec 03, section 3.5). -/

namespace Sys2Proof.Machine

/-! ## Staging (R151, R152) -/

/-- Whether the table holds the key in a protected entry. -/
def Table.holdsProtected (t : Table) (k : Key) : Bool :=
  match t.lookup k with
  | some (_, e) => e.prot
  | none => false

/-- Whether the item touches a protected entry of the table (R152, R44). -/
def ListItem.touchesProtected (t : Table) : ListItem → Bool
  | .add e => e.prot || t.holdsProtected e.key
  | .modify e => t.holdsProtected e.key
  | .delete k => t.holdsProtected k
  | .config _ _ => false

/-- Check 4 of Table 9-2 (R152): the role, against the active table. The answer LOCKED does not arise. -/
def State.stagingRefusal (s : State) (x : Session) (item : ListItem) : Option MgtStatus :=
  match x.role with
  | .integrator => none
  | .operator =>
    match item with
    | .config .protectedWays _ => some .wrongRole
    | item => if item.touchesProtected s.table then some .prot else none

/-- Checks 3 and 4 of Table 9-2, and the item at the tail of the list (R151). -/
def State.stage (s : State) (m : Mgt) (x : Session) (item : ListItem) : State :=
  if Config.listPlaces ≤ x.list.length then s.finish m .listFull []
  else
    match s.stagingRefusal x item with
    | some st => s.finish m st []
    | none =>
      (s.withSession (some { x with list := x.list ++ [item] })).finish m .done
        [byteOf (x.list.length + 1)]

/-- The stage operation of an item, none when check 2 of Table 9-2 fails (R151). -/
def State.stageParsed (s : State) (m : Mgt) (item : Option ListItem) : State :=
  s.whenOwner m fun x =>
    match item with
    | none => s.finish m .badArgument []
    | some item => s.stage m x item

/-- The CONFIG item that the data of STAGE_CONFIG names, when the item number is in Table 1-8 and the
value is in its range (R10). -/
def parseConfig : List Byte → Option ListItem
  | [ih, il, v3, v2, v1, v0] =>
    match ConfigItem.ofNumber (ofBe16 ih il) with
    | some i => if i.inRange (ofBe32 v3 v2 v1 v0) then some (.config i (ofBe32 v3 v2 v1 v0)) else none
    | none => none
  | _ => none

/-- STAGE_CONFIG (R151). -/
def execStageConfig (s : State) : Host.Outcome State Fault Refusal :=
  s.whenOp 0x05 6 fun m s => s.stageParsed m (parseConfig m.data)

/-- STAGE_ADD (R151). -/
def execStageAdd (s : State) : Host.Outcome State Fault Refusal :=
  s.whenOp 0x06 22 fun m s => s.stageParsed m ((parseEntry m.data).map .add)

/-- STAGE_MODIFY (R151). -/
def execStageModify (s : State) : Host.Outcome State Fault Refusal :=
  s.whenOp 0x07 22 fun m s => s.stageParsed m ((parseEntry m.data).map .modify)

/-- STAGE_DELETE (R151). -/
def execStageDelete (s : State) : Host.Outcome State Fault Refusal :=
  s.whenOp 0x08 3 fun m s => s.stageParsed m ((parseKey m.data).map .delete)

/-- LIST_READ(index) (R155). -/
def execListRead (s : State) : Host.Outcome State Fault Refusal :=
  s.whenOp 0x09 1 fun m s =>
    s.whenOwner m fun x =>
      match m.data with
      | [i] =>
        if 31 < i.toNat then s.finish m .badArgument []
        else
          match x.list[i.toNat]? with
          | some item => s.finish m .done item.bytes
          | none => s.finish m .notFound []
      | _ => s.finish m .badArgument []

/-- DISCARD (R155). -/
def execDiscard (s : State) : Host.Outcome State Fault Refusal :=
  s.whenOp 0x0B 0 fun m s =>
    s.whenOwner m fun x =>
      (s.withSession (some { x with list := [] })).finish m .done [byteOf x.list.length]

/-! ## Trying the items on a working copy (R153, Table 3-4) -/

/-- The APPLY reasons of Table 1-9. -/
inductive ApplyReason where
  | keyExists | notFound | bucketFull | prot | waysConflict | badField
  deriving DecidableEq, Repr

/-- The reason codes of Table 1-9. -/
def ApplyReason.code : ApplyReason → Byte
  | .keyExists => 1
  | .notFound => 2
  | .bucketFull => 3
  | .prot => 4
  | .waysConflict => 5
  | .badField => 6

/-- The working copy: the rule table, and the configuration with P in it (R153). -/
structure Working where
  table : Table
  settings : Settings
  deriving DecidableEq, Repr

/-- Whether way `w` is open to an entry of this mark under P = `p` (R38, Table 3-3). -/
def wayOpen (p : Nat) (prot : Bool) (w : Fin 4) : Bool := if prot then w.val < p else p ≤ w.val

/-- The lowest free way of a bucket in the range the mark allows (R41). -/
def Bucket.freeWay (b : Bucket) (p : Nat) (prot : Bool) : Option (Fin 4) :=
  ([0, 1, 2, 3] : List (Fin 4)).find? fun w => wayOpen p prot w && b[w].isNone

/-- Whether an item that touches a protected entry passes the protection test (R44). -/
def protectionPasses (role : Role) (lock : Bool) : Bool := role = .integrator && !lock

/-- An ADD on the working table (R37, R41, R44). -/
def Working.tryAdd (w : Working) (role : Role) (lock : Bool) (e : RuleEntry) :
    Except ApplyReason Working :=
  if e.prot && !protectionPasses role lock then .error .prot
  else if (w.table.lookup e.key).isSome then .error .keyExists
  else
    match Bucket.freeWay w.table[e.key.bucket] w.settings.protectedWays e.prot with
    | none => .error .bucketFull
    | some way => .ok { w with table := w.table.setWay e.key.bucket way (some { e with hits := 0 }) }

/-- A MODIFY on the working table (R42, R44): the way, the mark and the hit count are kept. -/
def Working.tryModify (w : Working) (role : Role) (lock : Bool) (e : RuleEntry) :
    Except ApplyReason Working :=
  match w.table.lookup e.key with
  | none => .error .notFound
  | some (way, old) =>
    if old.prot && !protectionPasses role lock then .error .prot
    else if e.prot ≠ old.prot then .error .badField
    else .ok { w with table := w.table.setWay e.key.bucket way (some { e with hits := old.hits }) }

/-- A DELETE on the working table (R43, R44). -/
def Working.tryDelete (w : Working) (role : Role) (lock : Bool) (k : Key) : Except ApplyReason Working :=
  match w.table.lookup k with
  | none => .error .notFound
  | some (way, old) =>
    if old.prot && !protectionPasses role lock then .error .prot
    else .ok { w with table := w.table.setWay k.bucket way none }

/-- Every entry of the table with its way. -/
def Table.placed (t : Table) : List (Fin 4 × RuleEntry) :=
  t.toList.flatMap fun b =>
    ([0, 1, 2, 3] : List (Fin 4)).filterMap fun w => (b[w]).map fun e => (w, e)

/-- A CONFIG item of PROTECTED_WAYS on the working copy (R46). -/
def Working.tryWays (w : Working) (lock : Bool) (n : Nat) : Except ApplyReason Working :=
  if lock then .error .prot
  else if w.table.placed.any fun x => x.2.prot then .error .waysConflict
  else if w.table.placed.any fun x => x.1.val < n then .error .waysConflict
  else .ok { w with settings := w.settings.put .protectedWays n }

/-- One item on the working copy (Table 3-4, R153). -/
def Working.tryItem (role : Role) (lock : Bool) (w : Working) : ListItem → Except ApplyReason Working
  | .add e => w.tryAdd role lock e
  | .modify e => w.tryModify role lock e
  | .delete k => w.tryDelete role lock k
  | .config .protectedWays v => w.tryWays lock v
  | .config i v => .ok { w with settings := w.settings.put i v }

/-- The items in staging order; the first failure stops the trying with its index (R153). -/
def Working.tryItems (role : Role) (lock : Bool) :
    Nat → Working → List ListItem → Except (Nat × ApplyReason) Working
  | _, w, [] => .ok w
  | i, w, item :: rest =>
    match w.tryItem role lock item with
    | .error r => .error (i, r)
    | .ok w' => Working.tryItems role lock (i + 1) w' rest

/-! ## APPLY takes effect (R154) -/

/-- Whether the list carries a CONFIG item of `i`. -/
def carries (list : List ListItem) (i : ConfigItem) : Bool :=
  list.any fun x => match x with
    | .config j _ => i = j
    | .add _ | .modify _ | .delete _ => false

/-- The size rows of Table 4-4: the tokens are cut to a smaller size, a full meter's timer stops, and a
meter below its new size has a stopped timer started with its period. -/
def Meter.resized (now size : Nat) (m : Meter) : Meter :=
  if size ≤ m.tokens then { m with size := size, tokens := size, refill := none }
  else { m with size := size, refill := some (m.refill.getD (now + msTicks m.period)) }

/-- The period row of Table 4-4, and its last row after the size rows: a meter below its size has its
timer started again with the new period. -/
def Meter.retimed (now period : Nat) (m : Meter) : Meter :=
  { m with
    period := period
    refill := if m.tokens < m.size then some (now + msTicks period) else none }

/-- The effect of an APPLY on a meter (R75, Table 4-4). -/
def Meter.adjusted (now : Nat) (size period : Option Nat) (m : Meter) : Meter :=
  let sized := match size with
    | some v => m.resized now v
    | none => m
  match period with
  | some v => sized.retimed now v
  | none => sized

/-- The meter bank after an APPLY of `list` that leaves the settings `c` (R75). -/
def State.adjustMeters (s : State) (list : List ListItem) (c : Settings) : Vector Meter 32 :=
  Vector.ofFn fun n =>
    (s.meters[n]).adjusted s.now
      (if carries list (.meterSize n) then some c.meterSize[n] else none)
      (if carries list (.meterPeriod n) then some c.meterPeriod[n] else none)

/-- The credits after an APPLY (R99). -/
def State.reloadCredits (s : State) (list : List ListItem) (c : Settings) : PerPort Nat :=
  if carries list (.share .a) || carries list (.share .b) then c.share else s.credits

/-- A mask change at the notice state of port `p` (R139): an enabled pending flag finds its timer
stopped, and the timer is started. -/
def State.maskChange (p : Port) (s : State) : State :=
  if s.announces p && (s.notice p).timer.isNone then s.startRepeat p else s

/-- The mask change of port `p`, when the list carries its mask (R139). -/
def State.maskChangeIf (s : State) (list : List ListItem) (p : Port) : State :=
  if carries list (.noticeMask p) then s.maskChange p else s

/-- A successful APPLY of the owner's list (R154). -/
def State.takeEffect (s : State) (x : Session) (w : Working) : State :=
  (({ s with
      table := w.table
      settings := w.settings
      fieldTx := s.keepClasses
      credits := s.reloadCredits x.list w.settings
      meters := s.adjustMeters x.list w.settings
      session := some { x with list := [] } }.maskChangeIf x.list .a).maskChangeIf x.list .b)

/-- APPLY (R153, R154): BUSY while a store operation is in flight; DONE 0 for an empty list; otherwise
whole or not at all. -/
def execApply (s : State) : Host.Outcome State Fault Refusal :=
  s.whenOp 0x0A 0 fun m s =>
    s.whenOwner m fun x =>
      if s.store.op.isSome then s.finish m .busy []
      else if x.list.isEmpty then s.finish m .done [0]
      else
        match Working.tryItems x.role s.lock 0 ⟨s.table, s.settings⟩ x.list with
        | .error (i, r) => s.finish m .applyFailed [byteOf i, r.code]
        | .ok w => (s.takeEffect x w).finish m .done [byteOf x.list.length]

end Sys2Proof.Machine
end

