-- ==== Sys2Proof/Machine/ImageStore.lean ====
section
/-! DEFINITION. The store controller: the three store operations, their ends, and READ_STORE (spec 10,
sections 10.1 to 10.4). -/

namespace Sys2Proof.Machine

/-- Checks 2 to 7 of Table 10-2, in order (R166). -/
def State.storeRefusal (s : State) (x : Session) (kind : StoreKind) : Option MgtStatus :=
  if s.store.op.isSome then some .busy
  else if s.store.faulted then some .storeFaulted
  else if kind ≠ .commit && !x.list.isEmpty then some .listPending
  else if kind = .setLock && s.lock then some .locked
  else if kind = .setLock && x.role = .operator then some .wrongRole
  else
    match s.store.newest with
    | some (_, g, _) => if Config.lastGeneration ≤ g then some .storeFaulted else none
    | none => none

/-- The target slot: the one that does not hold the newest VALID image, slot 0 when none is VALID (R167). -/
def Store.target (st : Store) : Fin 2 :=
  match st.newest with
  | some (i, _, _) => if i = 0 then 1 else 0
  | none => 0

/-- The generation to write (R167). -/
def Store.nextGeneration (st : Store) : Nat :=
  match st.newest with
  | some (_, g, _) => g + 1
  | none => 1

/-- The source of the image, by kind (Table 10-3, R164). -/
def State.imageSource (s : State) : StoreKind → Image
  | .commit => ⟨s.settings, s.lock, s.table.withoutHits⟩
  | .setLock => ⟨s.settings, true, s.table.withoutHits⟩
  | .eraseProtected => ⟨s.settings, false, s.table.withoutProtected.withoutHits⟩

/-- A store operation starts (R167): its target becomes WRITING, the limit timer runs, the operation is
recorded, and the slot of the MGT is freed without an answer. -/
def State.startStore (s : State) (m : Mgt) (kind : StoreKind) : State :=
  let target := s.store.target
  { s.freeSlot with
    store := { s.store.withSlot target .writing with
      op := some { kind := kind, target := target, generation := s.store.nextGeneration,
                   port := m.port, source := m.source, tag := m.tag, image := s.imageSource kind,
                   limit := s.inMs Config.storeLimitMs } } }

/-- A store operation of a kind: judged by Table 10-2, then started or refused (R166). -/
def State.storeOperation (s : State) (kind : StoreKind) : Host.Outcome State Fault Refusal :=
  s.whenOp kind.opCode 0 fun m s =>
    s.whenOwner m fun x =>
      match s.storeRefusal x kind with
      | some st => s.finish m st []
      | none => s.startStore m kind

/-- COMMIT (R166, R167). -/
def execCommit (s : State) : Host.Outcome State Fault Refusal := s.storeOperation .commit

/-- SET_LOCK (R166, R167). -/
def execSetLock (s : State) : Host.Outcome State Fault Refusal := s.storeOperation .setLock

/-- ERASE_PROTECTED (R166, R167). -/
def execEraseProtected (s : State) : Host.Outcome State Fault Refusal := s.storeOperation .eraseProtected

/-- An INTEGRATOR session becomes an OPERATOR session with an empty list (R150). -/
def Session.downgraded (x : Session) : Session :=
  match x.role with
  | .integrator => { x with role := .operator, list := [] }
  | .operator => x

/-- What a success does at the blocks the kind changes (R169, R52, R53, R150). -/
def State.storeEffect (s : State) : StoreKind → State
  | .commit => s
  | .setLock => { s with lock := true, session := s.session.map Session.downgraded }
  | .eraseProtected => { s with lock := false, table := s.table.withoutProtected }

/-- The MGA of a store operation, and its notice, which the store controller hands on in one happening
(R169, R170, log 6). -/
def State.storeReport (s : State) (op : StoreOp) (st : MgtStatus) (data : List Byte) (f : NoticeFlag) :
    State :=
  (s.inSomeOrder [State.answer op.port [mga op.source op.tag op.kind.opCode st data],
    State.request f .nothing op.port]).request f .nothing op.port.other

/-- The success of the operation in flight (R169). -/
def State.storeSuccess (s : State) (op : StoreOp) : State :=
  ({ s with store := { s.store.withSlot op.target (.valid op.generation op.image) with
      op := none, failures := 0 } }.storeEffect op.kind).storeReport op .done
    (byteOf op.target.val :: be32 op.generation) .storeDone

/-- The failure of the operation in flight, with its cause (R170). -/
def State.storeFailure (s : State) (op : StoreOp) (cause : Byte) : State :=
  { s with store := { s.store.withSlot op.target .erased with
      op := none
      failures := s.store.failures + 1
      faulted := s.store.faulted || 3 ≤ s.store.failures + 1 } }.storeReport op .storeFailed
    [byteOf op.target.val, cause] .storeFailed

/-- STORE_WRITE_END (R168): the end of writing, with the result of the read-back. -/
def execStoreWriteEnd (result : ReadBack) (s : State) : Host.Outcome State Fault Refusal :=
  s.whenRunning fun s =>
    match s.store.op with
    | none => s
    | some op =>
      match result with
      | .equal => s.storeSuccess op
      | .mismatch => s.storeFailure op 2

/-- STORE_LIMIT_EXPIRY (R168): the limit timer runs out first. -/
def execStoreLimitExpiry (s : State) : Host.Outcome State Fault Refusal :=
  s.whenRunning fun s =>
    match s.store.op with
    | none => s
    | some op => (s.reach op.limit).storeFailure op 1

/-- READ_STORE (R173). -/
def execReadStore (s : State) : Host.Outcome State Fault Refusal :=
  s.whenOp 0x1B 0 fun m s =>
    s.finish m .done
      ([s.store.slot0.code] ++ be32 s.store.slot0.generation ++ [s.store.slot1.code]
        ++ be32 s.store.slot1.generation
        ++ [(s.store.op.map fun op => op.kind.code).getD 0, byteOf s.store.failures,
          byteOf s.store.faulted.toNat])

end Sys2Proof.Machine
end

