-- ==== Sys2Proof/Machine/Leases.lean ====
section
/-! DEFINITION. The lease table: its operations, expiry, and release on a link going DOWN (spec 05). -/

namespace Sys2Proof.Machine

/-- The data of a HELD or NOT_HOLDER answer, and a record of LEASE_STATUS: the holder and the remaining
time in whole ms rounded up, 1 at the moment of the expiry itself (R78, Table 5-3). -/
def State.leaseReport (s : State) (l : Option Lease) : List Byte :=
  match l with
  | none => 0 :: be16 0
  | some l => holderCode l.holder :: be16 (max 1 (s.msUntil l.expiry))

/-- The group becomes free, and the requests its loss by port `p` purges leave the hold queue, in one
happening (R88, R103). -/
def State.loseGroup (s : State) (p : Port) (g : Nat) : State :=
  (s.withLease g none).dropHeld (·.lostWith p g)

/-- The purge answers of that loss (R88). -/
def State.lossRun (s : State) (p : Port) (g : Nat) : List Telegram :=
  purgeRun s.held (·.lostWith p g) .leaseLost p

/-- A group is granted to port `p`, or its expiry timer started again (R79, R80, R81). -/
def State.grant (s : State) (p : Port) (g granted : Nat) : State :=
  s.withLease g (some ⟨p, granted, s.inMs granted⟩)

/-- LEASE_TAKE(g, d) (R79, R80). -/
def execLeaseTake (s : State) : Host.Outcome State Fault Refusal :=
  s.whenOp 0x14 3 fun m s =>
    match m.data with
    | [g, hi, lo] =>
      let d := ofBe16 hi lo
      if g.toNat = 0 || 16 < g.toNat || d = 0 then s.finish m .badArgument []
      else
        let granted := min d s.settings.leaseMax
        match s.lease g.toNat with
        | some l =>
          if l.holder = m.port then (s.grant m.port g.toNat granted).finish m .done (g :: be16 granted)
          else s.finish m .held (s.leaseReport (some l))
        | none => (s.grant m.port g.toNat granted).finish m .done (g :: be16 granted)
    | _ => s.finish m .badArgument []

/-- LEASE_RENEW(g) (R81): with the granted duration of the last take; LEASE_MAX is not read. -/
def execLeaseRenew (s : State) : Host.Outcome State Fault Refusal :=
  s.whenOp 0x15 1 fun m s =>
    match m.data with
    | [g] =>
      if g.toNat = 0 || 16 < g.toNat then s.finish m .badArgument []
      else
        match s.lease g.toNat with
        | some l =>
          if l.holder = m.port then
            (s.grant m.port g.toNat l.granted).finish m .done (g :: be16 l.granted)
          else s.finish m .notHolder (s.leaseReport (some l))
        | none => s.finish m .notHolder (s.leaseReport none)
    | _ => s.finish m .badArgument []

/-- LEASE_RELEASE(g) (R82): a loss without a notice. Its MGA and the purge's run are handed on in one
happening (R128, log 6). -/
def execLeaseRelease (s : State) : Host.Outcome State Fault Refusal :=
  s.whenOp 0x16 1 fun m s =>
    match m.data with
    | [g] =>
      if g.toNat = 0 || 16 < g.toNat then s.finish m .badArgument []
      else
        match s.lease g.toNat with
        | some l =>
          if l.holder = m.port then
            (s.freeSlot.loseGroup m.port g.toNat).inSomeOrder
              (runClaim m.port (s.lossRun m.port g.toNat) ++ [State.answer m.port [m.answer .done [g]]])
          else s.finish m .notHolder (s.leaseReport (some l))
        | none => s.finish m .notHolder (s.leaseReport none)
    | _ => s.finish m .badArgument []

/-- LEASE_STATUS (R83): all 16 groups at one moment. -/
def execLeaseStatus (s : State) : Host.Outcome State Fault Refusal :=
  s.whenOp 0x17 0 fun m s => s.finish m .done (s.leases.toList.flatMap s.leaseReport)

/-- LEASE_EXPIRY (R84, R89): the group is freed with its purge, and LEASE_LOST is requested on the
former holder's port. -/
def execLeaseExpiry (g : Nat) (s : State) : Host.Outcome State Fault Refusal :=
  s.whenRunning fun s =>
    match s.lease g with
    | none => s
    | some l =>
      ((s.reach l.expiry).loseGroup l.holder g).inSomeOrder
        (runClaim l.holder (s.lossRun l.holder g) ++ [State.request .leaseLost (.group g) l.holder])

/-- The groups a port holds, lowest number first. -/
def State.groupsOf (s : State) (p : Port) : List Nat :=
  (List.range' 1 16).filter (s.holds p)

/-- Whether a link DOWN that frees `groups` of port `p` purges the request (R86, R103). -/
def HeldReq.lostWithAny (p : Port) (groups : List Nat) (r : HeldReq) : Bool :=
  groups.any fun g => r.lostWith p g

/-- Every group of port `p` is freed, and the requests purged by those losses leave the hold queue
(R86, R88). -/
def State.loseAll (s : State) (p : Port) : State :=
  { s with leases := s.leases.map (Option.filter (fun x : Lease => x.holder ≠ p) ·) }.dropHeld
    (·.lostWithAny p (s.groupsOf p))

/-- LEASE_RELEASE_ON_LINK_DOWN (R86): the lease table takes a DOWN announcement. One run answers the
requests of all the freed groups, and LEASE_LOST is requested once, with the lowest group (R89, R103). -/
def execLeaseReleaseOnLinkDown (p : Port) (s : State) : Host.Outcome State Fault Refusal :=
  s.whenRunning fun s =>
    match s.leaseDown.get p with
    | 0 => s
    | n + 1 =>
      let t := { s with leaseDown := s.leaseDown.set p n }
      match s.groupsOf p with
      | [] => t
      | g :: more =>
        (t.loseAll p).inSomeOrder
          (runClaim p (purgeRun s.held (·.lostWithAny p (g :: more)) .leaseLost p)
            ++ [State.request .leaseLost (.group g) p])

end Sys2Proof.Machine
end

