-- ==== Sys2Proof/Machine/Links.lean ====
section
/-! DEFINITION. Link receivers, delivery of well-formed telegrams on the control ports, and link
supervision (spec 02). Delivery on the Field port stands in Transactions.lean. -/

namespace Sys2Proof.Machine

/-- What one character does to an assembly: no more than a step of it, a framing error, or the end of a
well-formed telegram. Each carries the assembly after it. -/
inductive Received where
  | progress (next : Assembly)
  | framing (next : Assembly)
  | telegram (t : Telegram)
  deriving DecidableEq, Repr

/-- A character in HEADER (R23, R25): byte 1 is judged by its kind, byte 8 by the kind's maximum L. -/
def receiveHeader (bytes : List Byte) (c : Character) : Received :=
  if c.stopError then .framing (.hunt true)
  else
    let all := bytes ++ [c.byte]
    if bytes.length = 1 then
      if (kindOfByte c.byte).isSome then .progress (.header all) else .framing (.hunt true)
    else if bytes.length = 8 then
      match (all[1]?).bind kindOfByte with
      | some k => if c.byte.toNat ≤ k.maxLength then .progress (.body all) else .framing (.hunt true)
      | none => .framing (.hunt true)
    else .progress (.header all)

/-- A character in BODY (R24, R25): the last check byte ends the telegram. -/
def receiveBody (bytes : List Byte) (c : Character) : Received :=
  if c.stopError then .framing (.hunt true)
  else
    let all := bytes ++ [c.byte]
    if all.length < 11 + ((all[8]?).getD 0).toNat then .progress (.body all)
    else
      match parseTelegram all with
      | some t => .telegram t
      | none => .framing (.hunt false)

/-- A character in HUNT (R22). -/
def receiveHunt (runCounted : Bool) (c : Character) : Received :=
  if c.byte = 0xA7 && !c.stopError then .progress (.header [c.byte])
  else if runCounted then .progress (.hunt true)
  else .framing (.hunt true)

/-- One character at a link receiver (R22 to R25). -/
def Assembly.receive (a : Assembly) (c : Character) : Received :=
  match a with
  | .hunt m => receiveHunt m c
  | .header bytes => receiveHeader bytes c
  | .body bytes => receiveBody bytes c

/-- The receiver of link `l` with this assembly, its pause counted from now (R20). -/
def State.withAssembly (s : State) (l : Line) (a : Assembly) : State :=
  { s with rx := s.rx.set l ⟨a, s.now⟩ }

/-- FRAMING_ERRORS of a link's port is raised (R25). -/
def State.countFraming (s : State) : Line → State
  | .control p => s.count p .framingErrors
  | .field => s.countField .framingErrors

/-- CHARACTER_RECEIVED: the character takes the assembly one step on, or is a further unwanted one. A
character that would be a framing error or end a telegram is one of those happenings, not this one
(log 7). -/
def execCharacterReceived (l : Line) (c : Character) (s : State) : Host.Outcome State Fault Refusal :=
  s.whenRunning fun s =>
    match (s.rx.get l).assembly.receive c with
    | .progress a => s.withAssembly l a
    | .framing _ | .telegram _ => s

/-- FRAMING_ERROR (R22 to R25): the character is a framing error. -/
def execFramingError (l : Line) (c : Character) (s : State) : Host.Outcome State Fault Refusal :=
  s.whenRunning fun s =>
    match (s.rx.get l).assembly.receive c with
    | .framing a => (s.withAssembly l a).countFraming l
    | .progress _ | .telegram _ => s

/-- The moment at which the running pause of link `l` exceeds the running frame gap, counted in the
link's own bit times (R18, R20). -/
def State.gapExceeded (s : State) (l : Line) : Nat :=
  (s.rx.get l).pauseFrom + s.runningGap * bitTicks (s.runningRate.get l) + 1

/-- FRAME_GAP_PAUSE (R20): in HUNT the mark is cleared (R22); in HEADER and BODY the telegram is
truncated, a framing error that leaves the mark clear (R25). -/
def execFrameGapPause (l : Line) (s : State) : Host.Outcome State Fault Refusal :=
  s.whenRunning fun s =>
    let t := s.reach (s.gapExceeded l)
    let quiet : Receiver := ⟨.hunt false, (s.rx.get l).pauseFrom⟩
    match (s.rx.get l).assembly with
    | .hunt _ => { t with rx := t.rx.set l quiet }
    | .header _ | .body _ => { t with rx := t.rx.set l quiet }.countFraming l

/-- The link supervisor of port `p` takes a well-formed telegram (R28). -/
def State.supervise (s : State) (p : Port) : State :=
  let t := { s with links := s.links.set p (.up (s.inMs s.settings.silenceTime)) }
  match s.links.get p with
  | .down => t.request .peerUp .nothing p.other
  | .up _ => t

/-- The session's idle timer is started again when the port owns the session (R142, R148). -/
def State.touchSession (s : State) (p : Port) : State :=
  match s.session with
  | some x =>
    if x.owner = p then s.withSession (some { x with idle := s.inMs (s.settings.sessionIdle * 1000) })
    else s
  | none => s

/-- An MGT with its reservation is offered to the management slots (R142). -/
def State.offerMgt (s : State) (m : Mgt) : State :=
  let t := s.touchSession m.port
  if t.slots.length < Config.slotPlaces then { t with slots := t.slots ++ [m] }
  else t.answer m.port [m.answer .slotsFull []]

/-- A REQ with its reservation goes on to the screening unit (R127). -/
def State.offerReq (s : State) (p : Port) (t : Telegram) : State :=
  { s with toScreen := s.toScreen.set p (s.toScreen.get p ++ [t]) }

/-- Delivery of a well-formed telegram on a control port (R26, R127). -/
def State.deliver (s : State) (p : Port) (t : Telegram) : State :=
  match t.kind with
  | .req =>
    if (s.output p).used < Config.answerPlaces then (s.reserve p).offerReq p t
    else s.count p .overruns
  | .mgt =>
    if (s.output p).used < Config.answerPlaces then (s.reserve p).offerMgt (t.toMgt p)
    else s.count p .overruns
  | .rsp | .evt | .mga | .ntc => s.count p .wrongKind

/-- A well-formed telegram on port `p`: counted, reported to the supervisor, and delivered (R24, R26). -/
def State.takeTelegram (s : State) (p : Port) (t : Telegram) : State :=
  ((s.count p .telegramsIn).supervise p).deliver p t

/-- CONTROL_TELEGRAM (R24, R26): `last` is the second check byte of a well-formed telegram. -/
def execControlTelegram (p : Port) (last : Byte) (s : State) : Host.Outcome State Fault Refusal :=
  s.whenRunning fun s =>
    match (s.rx.get (.control p)).assembly.receive ⟨last, false⟩ with
    | .telegram t => (s.withAssembly (.control p) (.hunt false)).takeTelegram p t
    | .progress _ | .framing _ => s

/-- The silence timer of an UP link runs out: the link goes DOWN, and the lease table, the management
processor and the notice unit are told (R29). -/
def State.fallSilent (s : State) (p : Port) : State :=
  match s.links.get p with
  | .down => s
  | .up silence =>
    { s.reach silence with
      links := s.links.set p .down
      leaseDown := s.leaseDown.set p (s.leaseDown.get p + 1)
      sessionDown := s.sessionDown.set p (s.sessionDown.get p + 1)
      noticeDown := s.noticeDown.set p (s.noticeDown.get p + 1) }

/-- The notice unit takes a DOWN announcement of port `p`: PEER_DOWN is set on the other port (R29). -/
def State.notePeerDown (s : State) (p : Port) : State :=
  match s.noticeDown.get p with
  | 0 => s
  | n + 1 => { s with noticeDown := s.noticeDown.set p n }.request .peerDown .nothing p.other

/-- SILENCE_TIMER_EXPIRY (R29): the running out of a silence timer, and the taking of its announcement by
the notice unit. The three takings of a DOWN come in any order (R29, R80); that this one is a command of
this row is the model's choice (log 21). -/
def execSilenceTimerExpiry (x : SilenceStep) (s : State) : Host.Outcome State Fault Refusal :=
  s.whenRunning fun s =>
    match x with
    | .expiry p => s.fallSilent p
    | .notice p => s.notePeerDown p

end Sys2Proof.Machine
end

