-- ==== Sys2Proof/Machine/Management.lean ====
section
/-! DEFINITION. The management processor's other operations: unknown codes, ECHO, the session and its
ends, the reads, CLEAR_COUNTERS and SET_MODE (spec 09; R49, R50 of spec 03; R57 of spec 04). -/

namespace Sys2Proof.Machine

/-- Whether a code names a management operation (Table 1-7). -/
def isMgtOp (c : Byte) : Bool := 1 ≤ c.toNat && c.toNat ≤ 0x1B

/-- UNKNOWN_OP (R9): an MGT whose code is no operation; no state changes. -/
def execUnknownOp (s : State) : Host.Outcome State Fault Refusal :=
  s.whenMgt (fun c => !isMgtOp c) fun m s => s.finish m .unknownOp []

/-- ECHO (R145): the same data, any L. -/
def execEcho (s : State) : Host.Outcome State Fault Refusal :=
  s.whenMgt (· = 0x01) fun m s => s.finish m .done m.data

/-! ## The session (R146 to R149) -/

/-- SESSION_OPEN(role) (R146). -/
def execSessionOpen (s : State) : Host.Outcome State Fault Refusal :=
  s.whenOp 0x02 1 fun m s =>
    match m.data with
    | [r] =>
      match Role.ofCode r.toNat with
      | none => s.finish m .badArgument []
      | some role =>
        match s.session with
        | some x =>
          if x.owner ≠ m.port then s.finish m .sessionHeld []
          else if role = .integrator && s.lock then s.finish m .locked []
          else (s.withSession (some { x with role := role, list := [] })).finish m .done []
        | none =>
          if role = .integrator && s.lock then s.finish m .locked []
          else
            (s.withSession (some ⟨m.port, role, [], s.inMs (s.settings.sessionIdle * 1000)⟩)).finish m
              .done []
    | _ => s.finish m .badArgument []

/-- SESSION_CLOSE (R147). -/
def execSessionClose (s : State) : Host.Outcome State Fault Refusal :=
  s.whenOp 0x03 0 fun m s => s.whenOwner m fun _ => (s.withSession none).finish m .done []

/-- SESSION_IDLE_EXPIRY (R148). -/
def execSessionIdleExpiry (s : State) : Host.Outcome State Fault Refusal :=
  s.whenRunning fun s =>
    match s.session with
    | none => s
    | some x => ((s.reach x.idle).withSession none).request .sessionEnded .nothing x.owner

/-- SESSION_END_ON_LINK_DOWN (R149): the processor takes a DOWN announcement. -/
def execSessionEndOnLinkDown (p : Port) (s : State) : Host.Outcome State Fault Refusal :=
  s.whenRunning fun s =>
    match s.sessionDown.get p with
    | 0 => s
    | n + 1 =>
      let t := { s with sessionDown := s.sessionDown.set p n }
      match s.session with
      | some x =>
        if x.owner = p then (t.withSession none).request .sessionEnded .nothing p else t
      | none => t

/-! ## Reads -/

/-- READ_CONFIG(item) (R156). -/
def execReadConfig (s : State) : Host.Outcome State Fault Refusal :=
  s.whenOp 0x04 2 fun m s =>
    match m.data with
    | [hi, lo] =>
      match ConfigItem.ofNumber (ofBe16 hi lo) with
      | some i => s.finish m .done ([hi, lo] ++ be32 (s.settings.get i))
      | none => s.finish m .notFound []
    | _ => s.finish m .badArgument []

/-- READ_ENTRY(station, block) (R49, R51). -/
def execReadEntry (s : State) : Host.Outcome State Fault Refusal :=
  s.whenOp 0x0F 3 fun m s =>
    match parseKey m.data with
    | none => s.finish m .badArgument []
    | some k =>
      match s.table.lookup k with
      | none => s.finish m .notFound []
      | some (w, e) =>
        s.finish m .done ([byteOf k.bucket.val, byteOf w.val] ++ (e.seenUnder s.lock).bytes)

/-- READ_BUCKET(bucket) (R50, R51). -/
def execReadBucket (s : State) : Host.Outcome State Fault Refusal :=
  s.whenOp 0x10 1 fun m s =>
    match m.data with
    | [b] =>
      match s.table[b.toNat]? with
      | some bucket => s.finish m .done (bucket.toList.flatMap (waySummary s.lock))
      | none => s.finish m .badArgument []
    | _ => s.finish m .badArgument []

/-- The 10 bytes READ_STATION returns (R118, R158). -/
def State.stationReport (s : State) (r : Station) : List Byte :=
  [r.state.code, byteOf r.streak] ++ be32 ((r.hold.map s.msUntil).getD 0) ++ be16 r.timeouts
    ++ be16 r.unmatched

/-- READ_STATION(station) (R158). -/
def execReadStation (s : State) : Host.Outcome State Fault Refusal :=
  s.whenOp 0x11 1 fun m s =>
    match m.data with
    | [n] =>
      if isFieldStation n then s.finish m .done (s.stationReport (s.station n.toNat))
      else s.finish m .badArgument []
    | _ => s.finish m .badArgument []

/-- The station counter block that begins at station `first` and covers `n` stations (R10). -/
def State.stationBlock (s : State) (first n : Nat) : List Byte :=
  [byteOf first, byteOf n] ++ (List.range' first n).flatMap fun k =>
    be16 (s.station k).timeouts ++ be16 (s.station k).unmatched

/-- The counter block of a set and a part, none when either is out of range (R10, R159). -/
def State.counterBlock (s : State) (set part : Nat) : Option (List Byte) :=
  match set, part with
  | 0, 0 => some (s.counters.get .a).bytes
  | 1, 0 => some (s.counters.get .b).bytes
  | 2, 0 => some s.fieldCounters.bytes
  | 3, 0 => some (s.stationBlock 1 12)
  | 3, 1 => some (s.stationBlock 13 12)
  | 3, 2 => some (s.stationBlock 25 7)
  | 4, 0 => some (s.stationBlock 32 12)
  | 4, 1 => some (s.stationBlock 44 12)
  | 4, 2 => some (s.stationBlock 56 7)
  | _, _ => none

/-- READ_COUNTERS(set, part) (R159). -/
def execReadCounters (s : State) : Host.Outcome State Fault Refusal :=
  s.whenOp 0x12 2 fun m s =>
    match m.data with
    | [set, part] =>
      match s.counterBlock set.toNat part.toNat with
      | some block => s.finish m .done block
      | none => s.finish m .badArgument []
    | _ => s.finish m .badArgument []

/-- Every counter of Table 9-4 at 0 (R160). -/
def State.clearCounters (s : State) : State :=
  { s with
    counters := .both .zero
    fieldCounters := .zero
    stations := s.stations.map fun r => { r with timeouts := 0, unmatched := 0 } }

/-- CLEAR_COUNTERS (R160). -/
def execClearCounters (s : State) : Host.Outcome State Fault Refusal :=
  s.whenOp 0x13 0 fun m s => s.whenOwner m fun _ => s.clearCounters.finish m .done []

/-! ## The mode (R57, R58) -/

/-- The mode takes a value; a change from SCREENING to ISOLATED is announced to the dispatch unit. -/
def State.enterMode (s : State) (mode : Mode) : State :=
  { s with
    mode := mode
    isolatedPurges :=
      if s.mode = .screening && mode = .isolated then s.isolatedPurges + 1 else s.isolatedPurges }

/-- SET_MODE(mode) (R57, R58): the mode changes, and the DONE with the mode before is handed on. The placing
of that MGA is a happening of its own, taken by SCREENING or before the next answer of its port; other
happenings may come in between, a screening and a second SET_MODE among them (log 11). -/
def execSetMode (s : State) : Host.Outcome State Fault Refusal :=
  s.whenOp 0x19 1 fun m s =>
    s.whenOwner m fun _ =>
      match m.data with
      | [c] =>
        match Mode.ofCode c.toNat with
        | some mode => ((s.enterMode mode).freeSlot).handOn m.port (m.answer .done [byteOf s.mode.code])
        | none => s.finish m .badArgument []
      | _ => s.finish m .badArgument []

end Sys2Proof.Machine
end

