-- ==== Sys2Proof/Machine/Outputs.lean ====
section
/-! DEFINITION. The ends of sendings on the control ports, the repeat timers, and NOTICE_ACK (spec 08). -/

namespace Sys2Proof.Machine

/-- PORT_SEND_END (R131): the telegram leaves its section, and the next choice is made. -/
def execPortSendEnd (p : Port) (s : State) : Host.Outcome State Fault Refusal :=
  s.whenRunning fun s =>
    match (s.output p).sending with
    | none => s
    | some x =>
      let t := s.reach (s.sendEnd (.control p) x.telegram x.startedAt)
      t.withOutput p ((t.output p).endSending t.now)

/-- NOTICE_REPEAT_EXPIRY (R136): an NTC is offered and the timer started afresh, or the timer stops. -/
def execNoticeRepeatExpiry (p : Port) (s : State) : Host.Outcome State Fault Refusal :=
  s.whenRunning fun s =>
    match (s.notice p).timer with
    | none => s
    | some due =>
      let t := s.reach due
      if t.announces p then t.offerNtc p else t.withNotice p { t.notice p with timer := none }

/-- NOTICE_ACK(flag set) (R138): bits 10 to 15 of the argument are ignored. -/
def execNoticeAck (s : State) : Host.Outcome State Fault Refusal :=
  s.whenOp 0x18 2 fun m s =>
    match m.data with
    | [hi, lo] =>
      let n := (s.notice m.port).clear ((hi ++ lo).setWidth 10)
      let quiet : Bool := n.flags &&& s.mask m.port = 0
      (s.withNotice m.port { n with timer := if quiet then none else n.timer }).finish m .done
        (be16 n.flags.toNat)
    | _ => s.finish m .badArgument []

end Sys2Proof.Machine
end

