-- ==== Sys2Proof/Machine/Power.lean ====
section
/-! DEFINITION. Supply, RESET_N and the start-up load (spec 10, section 10.5). -/

namespace Sys2Proof.Machine

/-- A notice state with nothing pending and no detail (R141, before STARTED is asked for). -/
def NoticeState.quiet : NoticeState := ⟨0, 0, 0, .powerOn, none, false, none, 0⟩

/-- What is left when RESET_N falls or the supply fails: the image slots, the counters, the station
totals, the failure count and FAULTED (R174, Table 10-5). A store operation in flight is gone and its
target stays WRITING; every transmitter stops (R34, R131). The lost state holds start values until a
load ends (log 10). -/
def State.lost (s : State) : State :=
  { State.reset with
    pending := s.pending
    now := s.now
    choices := s.choices
    supply := s.supply
    resetLow := s.resetLow
    supplyLost := s.supplyLost
    phase := .held
    stations := s.stations.map fun r => { Station.fresh with timeouts := r.timeouts, unmatched := r.unmatched }
    outputs := .both .empty
    notices := .both .quiet
    counters := s.counters
    fieldCounters := s.fieldCounters
    store := { s.store with op := none } }

/-- What power-on does not keep and pin reset does (Table 10-5). -/
def State.clearKept (s : State) : State :=
  { s with
    stations := Vector.replicate 62 .fresh
    counters := .both .zero
    fieldCounters := .zero
    store := { s.store with failures := 0, faulted := false } }

/-- The state that a start of this cause keeps: Table 10-5. -/
def State.keptBy (s : State) : StartCause → State
  | .powerOn => s.lost.clearKept
  | .pin | .restart => s.lost

/-- The relay at the end of a load of the selected image, before STARTED is asked for: the start values
of every block (R18, R54, R59, R76, R91, R107, R124, R140, R141, R162). -/
def State.loaded (s : State) (cause : StartCause) (image : Image) : State :=
  { s.keptBy cause with
    phase := .running
    runningRate := image.settings.rate
    runningGap := image.settings.frameGap
    rx := .all ⟨.hunt false, s.now⟩
    table := image.table.withoutHits
    lock := image.lock
    settings := image.settings
    mode := image.settings.startMode
    meters := metersFor image.settings
    credits := image.settings.share
    lastShare := .b }

/-- The end of the start-up load (R175, R176, R141). -/
def State.startUp (s : State) (cause : StartCause) : State :=
  let sel := s.store.select
  (s.loaded cause sel.image).requestBoth .started (.start cause sel.slot sel.fallback)

/-- POWER_ON (R174): the supply rises into its range. The load begins, unless RESET_N is low; then it
begins when RESET_N rises. A supply that is in range does not rise into it (log 4). -/
def execPowerOn (s : State) : Host.Outcome State Fault Refusal :=
  .next <|
    if s.supply then s
    else if s.resetLow.isNone then
      { s with supply := true, supplyLost := false, phase := .loading .powerOn }
    else { s with supply := true, phase := .held }

/-- POWER_FAIL (R174): the supply leaves its range. -/
def execPowerFail (s : State) : Host.Outcome State Fault Refusal :=
  .next <| if s.supply then { s.lost.clearKept with supply := false, supplyLost := true } else s

/-- RESET_N_FALL (R174): the fall of a low level that is not ignored (log 8). -/
def execResetNFall (s : State) : Host.Outcome State Fault Refusal :=
  .next <|
    if s.resetLow.isSome then s
    else if s.supply then { s.lost with resetLow := some s.now }
    else { s with resetLow := some s.now }

/-- PIN_RESET (R174): RESET_N rises, at least 10 µs after it fell. The load begins if the supply is in
range; its cause is POWER_ON when the supply left its range since the last load began (log 9). -/
def execPinReset (s : State) : Host.Outcome State Fault Refusal :=
  .next <|
    match s.resetLow with
    | none => s
    | some fell =>
      let t := { s.reach (fell + Config.resetPulse) with resetLow := none }
      if t.supply then
        { t with phase := .loading (if t.supplyLost then .powerOn else .pin), supplyLost := false }
      else t

/-- START_UP_LOAD_END (R176). -/
def execStartUpLoadEnd (s : State) : Host.Outcome State Fault Refusal :=
  .next <|
    match s.phase with
    | .loading cause => s.startUp cause
    | .held | .running => s

end Sys2Proof.Machine
end

