-- ==== Sys2Proof/Machine/Restart.lean ====
section
/-! DEFINITION. RESTART: the reload, its parts at the blocks, and its answer (spec 10, section 10.6). -/

namespace Sys2Proof.Machine

/-- The reload (R177, R55, R162): its slot stays occupied, and the processor executes nothing else. -/
def State.reload (s : State) : State :=
  let sel := s.store.select
  { s with
    table := sel.image.table.withoutHits
    lock := sel.image.lock
    settings := sel.image.settings
    fieldTx := s.keepClasses
    session := none
    restart := some { startSlot := sel.slot, fallback := sel.fallback, holdDone := false,
                      transactionDone := false, noticeDone := .both false } }

/-- RESTART (R177): judged by the session, BUSY while a store operation is in flight, else accepted. -/
def execRestart (s : State) : Host.Outcome State Fault Refusal :=
  s.whenOp 0x1A 0 fun m s =>
    s.whenOwner m fun _ => if s.store.op.isSome then s.finish m .busy [] else s.reload

/-- A part of a RESTART that runs; a part taken once is not taken again (R178). -/
def State.whenRestarting (s : State) (due : RestartRun → Bool) (f : RestartRun → State → State) :
    Host.Outcome State Fault Refusal :=
  s.whenRunning fun s =>
    match s.restart with
    | some r => if due r then f r s else s
    | none => s

/-- RESTART_HOLD_AND_LEASE_PART (R178, R59, R76, R92, R106): one happening at the screening unit, the
dispatch unit and the lease table. -/
def execRestartHoldAndLeasePart (s : State) : Host.Outcome State Fault Refusal :=
  s.whenRestarting (fun r => !r.holdDone) fun r s =>
    { s with
      mode := s.settings.startMode
      meters := metersFor s.settings
      leases := Vector.replicate 16 none
      credits := s.settings.share
      lastShare := .b
      restart := some { r with holdDone := true } }.purge (fun _ => true) .aborted

/-- The ABORTED answers of the transactions of port `p`, in the order the entries were made (R125). -/
def abortedRun (entries : List Entry) (p : Port) : List Telegram :=
  (entries.filter (·.port = p)).map (·.relayRsp .aborted)

/-- RESTART_TRANSACTION_PART (R125): the relay tag counter and the station totals are kept. -/
def execRestartTransactionPart (s : State) : Host.Outcome State Fault Refusal :=
  s.whenRestarting (fun r => !r.transactionDone) fun r s =>
    let t := { s with
      entries := []
      stations := s.stations.map Station.returned
      restart := some { r with transactionDone := true } }
    (t.inSomeOrder (runClaim .a (abortedRun s.entries .a))).inSomeOrder
      (runClaim .b (abortedRun s.entries .b))

/-- RESTART_NOTICE_PART (R141, R178) at port `p`: STARTED with cause RESTART, and the reloaded mask
taken as a mask change (R139). -/
def execRestartNoticePart (p : Port) (s : State) : Host.Outcome State Fault Refusal :=
  s.whenRestarting (fun r => !(r.noticeDone.get p)) fun r s =>
    State.maskChange p
      ({ s with restart := some { r with noticeDone := r.noticeDone.set p true } }.request .started
        (.start .restart r.startSlot r.fallback) p)

/-- Whether all the parts of R178 have been taken. -/
def RestartRun.complete (r : RestartRun) : Bool :=
  r.holdDone && r.transactionDone && r.noticeDone.a && r.noticeDone.b

/-- RESTART_ANSWER (R179): DONE is placed and the RESTART's slot is freed. -/
def execRestartAnswer (s : State) : Host.Outcome State Fault Refusal :=
  s.whenRestarting RestartRun.complete fun _ s =>
    match s.slots with
    | m :: _ => { s with restart := none }.finish m .done []
    | [] => s

end Sys2Proof.Machine
end

