-- ==== Sys2Proof/Machine/Screening.lean ====
section
/-! DEFINITION. The screening unit: checks 1 to 12, admission, the meter bank, and the hit raise at the
rule table (spec 04, and R40 of spec 03). SET_MODE stands in Management.lean. -/

namespace Sys2Proof.Machine

/-- What the screening of a REQ decides (R60). An admission names the meter that gives the token, 0 for
none. -/
inductive Verdict where
  | absorbed
  | refused (st : RelayStatus)
  | admitted (r : HeldReq) (meter : Nat)
  deriving DecidableEq, Repr

/-- Check 1: the triple of port, master source and master tag is held or in transaction (R61). -/
def State.isDuplicate (s : State) (p : Port) (t : Telegram) : Bool :=
  (s.held.any fun r => r.port = p && r.source = t.source && r.tag = t.tag)
    || (s.entries.any fun e => e.port = p && e.source = t.source && e.tag = t.tag)

/-- Check 8 for an op that needs the lease of group `g` (R65). -/
def State.leaseCheck (s : State) (p : Port) (op : Op) (g : Nat) : Option RelayStatus :=
  if op.needsLease && g != 0 then
    if s.holds p g then none
    else if (s.lease g).isSome then some .leased
    else some .noLease
  else none

/-- The signed value that four data bytes carry (R5). -/
def limitValue : List Byte → Option (BitVec 32)
  | [b3, b2, b1, b0] => some (b3 ++ b2 ++ b1 ++ b0)
  | _ => none

/-- Check 9 for an op under the copy of a rule (R66). -/
def limitCheck (e : RuleEntry) (op : Op) (data : List Byte) : Option RelayStatus :=
  if e.limitPresent && op = .write then
    match limitValue data with
    | none => some .badLength
    | some v =>
      if v.toInt < e.limitLow.toInt || e.limitHigh.toInt < v.toInt then some .outOfRange else none
  else none

/-- Whether check 11 fails (R68). -/
def State.queueFull (s : State) (p : Port) : Bool :=
  Config.heldPlaces ≤ s.held.length
    || Config.heldPlacesPerPort ≤ (s.held.filter fun r => r.port = p).length

/-- Whether check 12 fails: the rule's meter has 0 tokens (R69). -/
def State.meterEmpty (s : State) (n : Nat) : Bool :=
  match s.meter n with
  | some m => m.tokens = 0
  | none => false

/-- The held request formed at admission (Table 4-3). -/
def heldOf (p : Port) (t : Telegram) (op : Op) (e : RuleEntry) : HeldReq :=
  { port := p, source := t.source, tag := t.tag, station := t.dest, object := t.object, op := op,
    data := t.data, urgent := t.urgent, timeoutClass := e.timeoutClass, group := e.group }

/-- Checks 7 to 12, from the copy `e` of the rule (R64 to R69). -/
def State.screenUnder (s : State) (p : Port) (t : Telegram) (op : Op) (e : RuleEntry) : Verdict :=
  if !(e.ops.get p).has op then .refused .denied
  else
    match s.leaseCheck p op e.group with
    | some st => .refused st
    | none =>
      match limitCheck e op t.data with
      | some st => .refused st
      | none =>
        if (s.station t.dest.toNat).state = .quarantined then .refused .noStation
        else if s.queueFull p then .refused .queueFull
        else if s.meterEmpty e.meter then .refused .rate
        else .admitted (heldOf p t op e) e.meter

/-- Checks 1 to 12 in the order of Table 4-2 (R60). -/
def State.screen (s : State) (p : Port) (t : Telegram) : Verdict :=
  if s.isDuplicate p t then .absorbed
  else if s.mode = .isolated then .refused .isolated
  else if !isFieldStation t.dest then .refused .badAddress
  else
    match Op.ofCode t.code with
    | none => .refused .badOp
    | some op =>
      if !op.lengthOk t.data.length then .refused .badLength
      else
        match s.table.lookup (keyOf t.dest t.object) with
        | none => .refused .noRule
        | some (_, e) => s.screenUnder p t op e

/-- A meter after a take: one token less, and its refill timer started when it was stopped and the
tokens are below the size (R69, R73). -/
def Meter.take (now : Nat) (m : Meter) : Meter :=
  let left := m.tokens - 1
  { m with
    tokens := left
    refill := if m.refill.isNone && left < m.size then some (now + msTicks m.period) else m.refill }

/-- A token is taken from meter `n`; meter 0 is none (R69). -/
def State.takeToken (s : State) (n : Nat) : State :=
  match s.meter n with
  | some m => s.withMeter n (m.take s.now)
  | none => s

/-- An admission: the token, the held request at the tail, and the hit raise asked for (R71). -/
def State.admission (s : State) (r : HeldReq) (meter : Nat) : State :=
  let t := s.takeToken meter
  { t with
    held := t.held ++ [r]
    hitRaises := t.hitRaises ++ [keyOf r.station r.object] }.count r.port .admitted

/-- What the verdict does at once, and what it hands on: a refusal's answer, an absorbed REQ's reservation
(R60, R61, R70, R71). -/
def State.conclude (s : State) (p : Port) (t : Telegram) : Verdict → State
  | .absorbed => (s.handBack p).count p .duplicates
  | .refused st => (s.count p .refused).handOn p (t.refusal st)
  | .admitted r meter => s.admission r meter

/-- The REQ of port `p` that arrived first is absorbed, refused or admitted (R60). -/
def State.judgeFirst (s : State) (p : Port) : State :=
  match s.toScreen.get p with
  | [] => s
  | t :: rest =>
    { s with toScreen := s.toScreen.set p rest }.conclude p t (s.screen p t)

/-- SCREENING (R60), its happening and the two later claims at the output unit: the placing of the answer
that was handed on first, be it a refusal or the MGA of a SET_MODE (R57), and the release of a reservation
that was handed back. That each of them is a command of this row is the model's choice (log 11). -/
def execScreening (x : ScreeningStep) (s : State) : Host.Outcome State Fault Refusal :=
  s.whenRunning fun s =>
    match x with
    | .judge p => s.judgeFirst p
    | .place p => s.withOutput p ((s.output p).placeOldest s.now)
    | .release p => s.withOutput p (s.output p).releaseOne

/-- The table with the hit count of the key's entry raised, if an entry holds the key (R40, R47). -/
def Table.raiseHit (t : Table) (k : Key) : Table :=
  match t.lookup k with
  | some (w, e) => t.setWay k.bucket w (some { e with hits := raise16 e.hits })
  | none => t

/-- HIT_COUNT_RAISE (R40): a raise that was asked for is taken at the table as it now stands. -/
def execHitCountRaise (station : Byte) (block : Nat) (s : State) : Host.Outcome State Fault Refusal :=
  s.whenRunning fun s =>
    let k : Key := ⟨station, block⟩
    if k ∈ s.hitRaises then
      { s with hitRaises := s.hitRaises.erase k, table := s.table.raiseHit k }
    else s

/-- A meter after its refill timer runs out (R73). -/
def Meter.refilled (now : Nat) (m : Meter) : Meter :=
  let more := m.tokens + 1
  { m with tokens := more, refill := if more < m.size then some (now + msTicks m.period) else none }

/-- METER_REFILL (R73): the refill timer of meter `n` runs out. -/
def execMeterRefill (n : Nat) (s : State) : Host.Outcome State Fault Refusal :=
  s.whenRunning fun s =>
    match s.meter n with
    | none => s
    | some m =>
      match m.refill with
      | none => s
      | some moment =>
        let t := s.reach moment
        t.withMeter n (m.refilled t.now)

end Sys2Proof.Machine
end

