-- ==== Sys2Proof/Machine/Transactions.lean ====
section
/-! DEFINITION. Dispatch, transactions, field stations and event routing: the hold queue's arbiter
(spec 06), the transaction unit (spec 07), delivery on the Field port (R27) and event routing (spec 08,
section 8.4). -/

namespace Sys2Proof.Machine

/-! ## Eligibility and the arbiter (R95, R97 to R99) -/

/-- The requests of `held` that are eligible by conditions 1 and 2 of R95, oldest first. `seen` holds
the port and station of every older request. -/
def State.eligibleFrom (s : State) (seen : List (Port × Byte)) : List HeldReq → List HeldReq
  | [] => []
  | r :: rest =>
    let later := s.eligibleFrom ((r.port, r.station) :: seen) rest
    if (s.station r.station.toNat).state = .idle && !(seen.contains (r.port, r.station)) then r :: later
    else later

/-- The eligible requests, oldest first (R95). -/
def State.eligible (s : State) : List HeldReq :=
  if s.fieldTx.isNone && s.entries.length < Config.entryPlaces then s.eligibleFrom [] s.held else []

/-- The port a share pick serves when both have a candidate (R98). -/
def State.sharePort (s : State) : Port :=
  if s.credits.b < s.credits.a then .a
  else if s.credits.a < s.credits.b then .b
  else s.lastShare.other

/-- What the arbiter picks, and whether by credit (R97, R98). -/
structure Pick where
  req : HeldReq
  byShare : Bool
  deriving DecidableEq, Repr

/-- The share pick among the eligible requests (R98). -/
def State.sharePick (s : State) (es : List HeldReq) : Option HeldReq :=
  match es.find? (·.port = .a), es.find? (·.port = .b) with
  | some ra, some rb => some (match s.sharePort with | .a => ra | .b => rb)
  | some ra, none => some ra
  | none, other => other

/-- The arbiter (R97, R98): the oldest eligible URGENT request, else by the credits. -/
def State.arbiter (s : State) : Option Pick :=
  match s.eligible.find? (·.urgent) with
  | some r => some ⟨r, false⟩
  | none => (s.sharePick s.eligible).map fun r => ⟨r, true⟩

/-- The credits and the last share port after a share pick of port `p` (R98), reloaded when both are 0
(R99). -/
def State.shared (s : State) (p : Port) : State :=
  let c := s.credits.set p (s.credits.get p - 1)
  { s with credits := if c.a = 0 && c.b = 0 then s.settings.share else c, lastShare := p }

/-- The first tag from `t` on that no entry holds, among `n` more candidates (R109). -/
def allocTag (entries : List Entry) : Nat → Byte → Byte
  | 0, t => t
  | n + 1, t => if entries.any (·.relayTag = t) then allocTag entries n (t + 1) else t

/-- The entry made for a request at its dispatch (R96, R110). -/
def HeldReq.entry (r : HeldReq) (relayTag : Byte) : Entry :=
  { relayTag := relayTag, station := r.station, port := r.port, source := r.source, tag := r.tag,
    object := r.object, timeoutClass := r.timeoutClass, state := .sending }

/-- The dispatch of the request `r` (R96, R109, R110, R32). -/
def State.dispatchReq (s : State) (r : HeldReq) : State :=
  let tag := allocTag s.entries 16 s.tagCounter
  { s.withStation r.station.toNat { s.station r.station.toNat with state := .busy } with
    held := s.held.erase r
    entries := s.entries ++ [r.entry tag]
    tagCounter := tag + 1
    fieldTx := some ⟨tag, r.station, r.fieldReq tag, s.now, none⟩ }

/-- DISPATCH (R96). -/
def execDispatch (s : State) : Host.Outcome State Fault Refusal :=
  s.whenRunning fun s =>
    match s.arbiter with
    | none => s
    | some pick =>
      if pick.byShare then (s.dispatchReq pick.req).shared pick.req.port else s.dispatchReq pick.req

/-! ## The end of a field transmission (R33, R111) -/

/-- The end of the transmission `x`, as the field transmitter announces it: its moment, and the
TIMEOUT_CLASS values live at that moment (R33, R111). -/
def State.announced (s : State) (x : FieldSend) : FieldEnd :=
  ⟨x.tag, x.station, s.sendEnd .field x.telegram x.startedAt, x.classes.getD s.settings.timeoutClass⟩

/-- The deadline of an entry of a timeout class, counted from the end of the transmission (R111). -/
def FieldEnd.deadline (a : FieldEnd) (cls : Nat) : Nat := a.ended + msTicks ((a.classes[cls]?).getD 0)

/-- The SENDING entry that the announcement names becomes WAITING (R111). -/
def Entry.sent (a : FieldEnd) (e : Entry) : Entry :=
  if e.relayTag = a.tag && e.station = a.station && e.state = .sending then
    { e with state := .waiting (a.deadline e.timeoutClass) }
  else e

/-- FIELD_TRANSMISSION_END (R33, R111), its two happenings: the field transmitter becomes IDLE and
announces the end, and the transaction unit takes the announcement. While an announcement waits, the
command is its taking; a dispatch or a field RSP may come before it (R115, log 11). -/
def execFieldTransmissionEnd (s : State) : Host.Outcome State Fault Refusal :=
  s.whenRunning fun s =>
    match s.fieldEnd, s.fieldTx with
    | some a, _ => { s with fieldEnd := none, entries := s.entries.map (Entry.sent a) }
    | none, some x =>
      { s.reach (s.announced x).ended with fieldTx := none, fieldEnd := some (s.announced x) }
    | none, none => s

/-! ## Deadlines and quarantine (R116, R117, R104) -/

/-- A station record after a deadline that does not end in quarantine, or that does: streak and total
timeouts raised (R116, R117). -/
def Station.timedOut (r : Station) (limit : Nat) (holdUntil : Nat) : Station :=
  let streak := raiseStreak r.streak
  { r with
    streak := streak
    timeouts := raise16 r.timeouts
    state := if streak < limit then .idle else .quarantined
    hold := if streak < limit then r.hold else some holdUntil }

/-- The WAITING entry with relay tag `tag` and its deadline. -/
def State.waitingEntry (s : State) (tag : Byte) : Option (Entry × Nat) :=
  s.entries.findSome? fun e =>
    match e.state with
    | .waiting d => if e.relayTag = tag then some (e, d) else none
    | .sending => none

/-- The claims of a deadline at the output unit and notice state of port `p`: the TIMEOUT answer, and
when the station enters quarantine the run of NO_STATION answers and the notice (R116, R117, R104). -/
def deadlineClaims (e : Entry) (held : List HeldReq) (quarantined : Bool) (p : Port) :
    List (State → State) :=
  runClaim p (if e.port = p then [e.relayRsp .timeout] else [])
    ++ (if quarantined then
          runClaim p (purgeRun held (·.station = e.station) .noStation p)
            ++ [State.request .stationQuarantined (.station e.station) p]
        else [])

/-- DEADLINE (R116, R117, R104) of the WAITING entry with relay tag `tag`. -/
def execDeadline (tag : Byte) (s : State) : Host.Outcome State Fault Refusal :=
  s.whenRunning fun s =>
    match s.waitingEntry tag with
    | none => s
    | some (e, due) =>
      let t := s.reach due
      let n := e.station.toNat
      let r := (t.station n).timedOut t.settings.quarantineLimit
        (t.inMs (t.settings.quarantineHold * 1000))
      let quarantined : Bool := r.state = .quarantined
      let u := { t.withStation n r with
        entries := t.entries.erase e
        held := if quarantined then t.held.filter (fun h => !(h.station = e.station)) else t.held }
      (u.inSomeOrder (deadlineClaims e t.held quarantined .a)).inSomeOrder
        (deadlineClaims e t.held quarantined .b)

/-- HOLD_TIMER_EXPIRY (R120): a QUARANTINED station returns. -/
def execHoldTimerExpiry (n : Nat) (s : State) : Host.Outcome State Fault Refusal :=
  s.whenRunning fun s =>
    match (s.station n).hold with
    | none => s
    | some due =>
      ((s.reach due).withStation n (s.station n).returned).requestBoth .stationReturned
        (.station (byteOf n))

/-! ## Purge on entering ISOLATED (R105) -/

/-- ISOLATED_PURGE (R105): an announced entry into ISOLATED is taken; every held request is answered. -/
def execIsolatedPurge (s : State) : Host.Outcome State Fault Refusal :=
  s.whenRunning fun s =>
    match s.isolatedPurges with
    | 0 => s
    | n + 1 => { s with isolatedPurges := n }.purge (fun _ => true) .isolated

/-! ## Field telegrams (R27, R112 to R114, R119, R122, R132, R133) -/

/-- Whether the telegram is a sign of life that returns its station: the source is 1 to 62 and the
station is QUARANTINED (R119). -/
def State.returnsStation (s : State) (t : Telegram) : Bool :=
  isFieldStation t.source && (s.station t.source.toNat).state = .quarantined

/-- A sign of life (R119): a QUARANTINED station returns, and STATION_RETURNED is requested on both
ports. It comes before whatever else the telegram does (R112, R122). -/
def State.signOfLife (s : State) (t : Telegram) : State :=
  if s.returnsStation t then
    (s.withStation t.source.toNat (s.station t.source.toNat).returned).requestBoth .stationReturned
      (.station t.source)
  else s

/-- The entry that a field RSP matches: WAITING, with the RSP's source and tag (R112, step 2). -/
def Entry.matchesRsp (rsp : Telegram) (e : Entry) : Bool :=
  e.state ≠ .sending && e.station = rsp.source && e.relayTag = rsp.tag

/-- A matching RSP: the entry leaves, the answer is forwarded, the station becomes IDLE with streak 0
(R113). -/
def State.matched (s : State) (e : Entry) (rsp : Telegram) : State :=
  let n := e.station.toNat
  ({ s with entries := s.entries.erase e }.withStation n
    { s.station n with state := .idle, streak := 0 }).answer e.port [e.forward rsp]

/-- An RSP that matches no entry (R114). -/
def State.unmatchedRsp (s : State) (rsp : Telegram) : State :=
  let n := rsp.source.toNat
  if isFieldStation rsp.source then
    (s.countField .unmatched).withStation n
      { s.station n with unmatched := raise16 (s.station n).unmatched }
  else s.countField .unmatched

/-- Step 2 of R112. -/
def State.takeRsp (s : State) (rsp : Telegram) : State :=
  match s.entries.find? (·.matchesRsp rsp) with
  | some e => s.matched e rsp
  | none => s.unmatchedRsp rsp

/-- A copy of an EVT is offered to the event section of port `p` (R129, R133, R15). -/
def State.offerEvt (evt : Telegram) (p : Port) (s : State) : State :=
  let o := s.output p
  if o.events.length < Config.eventPlaces then
    s.withOutput p ({ o with gap := false }.placeEvent s.now (forwardEvt evt o.gap))
  else
    ((s.count p .eventsDropped).withOutput p { o with gap := true }).request .eventGap .nothing p

/-- The ports event routing offers the EVT to; none when it is dropped (R132). -/
def State.routeOf (s : State) (evt : Telegram) : Route :=
  if s.mode = .isolated then .none
  else
    match s.table.lookup (keyOf evt.source evt.object) with
    | some (_, e) => e.route
    | none => .none

/-- The counter of a dropped EVT (R132, steps 1 and 2). -/
def State.countRoute (s : State) (evt : Telegram) : State :=
  if s.mode = .isolated then s.countField .eventsDropped
  else if s.routeOf evt = .none then s.countField .eventsNoRule
  else s

/-- A copy of the EVT is offered on port `p` when its route names the port (R132, step 3). -/
def State.offerTo (s : State) (evt : Telegram) (route : Route) (p : Port) : State :=
  if route.includes p then s.offerEvt evt p else s

/-- Event routing (R132): the EVT is counted when it is dropped, and else offered on each routed port. -/
def State.routeEvt (s : State) (evt : Telegram) : State :=
  ((s.countRoute evt).offerTo evt (s.routeOf evt) .a).offerTo evt (s.routeOf evt) .b

/-- Handling by kind (R27, Table 2-4). A sign of life is taken first, whatever the kind. -/
def State.takeFieldTelegram (s : State) (t : Telegram) : State :=
  let u := (s.countField .telegramsIn).signOfLife t
  match t.kind with
  | .rsp => if t.dest = 63 then u.takeRsp t else u.countField .wrongKind
  | .evt => u.routeEvt t
  | .req | .mgt | .mga | .ntc => u.countField .wrongKind

/-- FIELD_TELEGRAM (R24, R27): `last` is the second check byte of a well-formed telegram. -/
def execFieldTelegram (last : Byte) (s : State) : Host.Outcome State Fault Refusal :=
  s.whenRunning fun s =>
    match (s.rx.get .field).assembly.receive ⟨last, false⟩ with
    | .telegram t => (s.withAssembly .field (.hunt false)).takeFieldTelegram t
    | .progress _ | .framing _ => s

end Sys2Proof.Machine
end

