-- ==== Sys2Proof/Machine/Dispatch.lean ====
section
/-! DEFINITION. One arm for each command, in the order of spec/opcode_table.json. -/

namespace Sys2Proof.Machine

def exec (i : Instr) (s : State) : Host.Outcome State Fault Refusal :=
  match i with
  | .powerOn => Sys2Proof.Machine.execPowerOn s
  | .powerFail => Sys2Proof.Machine.execPowerFail s
  | .resetNFall => Sys2Proof.Machine.execResetNFall s
  | .pinReset => Sys2Proof.Machine.execPinReset s
  | .startUpLoadEnd => Sys2Proof.Machine.execStartUpLoadEnd s
  | .framingError l c => Sys2Proof.Machine.execFramingError l c s
  | .frameGapPause l => Sys2Proof.Machine.execFrameGapPause l s
  | .controlTelegram p last => Sys2Proof.Machine.execControlTelegram p last s
  | .silenceTimerExpiry x => Sys2Proof.Machine.execSilenceTimerExpiry x s
  | .leaseReleaseOnLinkDown p => Sys2Proof.Machine.execLeaseReleaseOnLinkDown p s
  | .sessionEndOnLinkDown p => Sys2Proof.Machine.execSessionEndOnLinkDown p s
  | .fieldTelegram last => Sys2Proof.Machine.execFieldTelegram last s
  | .screening x => Sys2Proof.Machine.execScreening x s
  | .hitCountRaise station block => Sys2Proof.Machine.execHitCountRaise station block s
  | .dispatch => Sys2Proof.Machine.execDispatch s
  | .fieldTransmissionEnd => Sys2Proof.Machine.execFieldTransmissionEnd s
  | .deadline tag => Sys2Proof.Machine.execDeadline tag s
  | .holdTimerExpiry station => Sys2Proof.Machine.execHoldTimerExpiry station s
  | .meterRefill meter => Sys2Proof.Machine.execMeterRefill meter s
  | .leaseExpiry group => Sys2Proof.Machine.execLeaseExpiry group s
  | .isolatedPurge => Sys2Proof.Machine.execIsolatedPurge s
  | .portSendEnd p => Sys2Proof.Machine.execPortSendEnd p s
  | .noticeRepeatExpiry p => Sys2Proof.Machine.execNoticeRepeatExpiry p s
  | .sessionIdleExpiry => Sys2Proof.Machine.execSessionIdleExpiry s
  | .unknownOp => Sys2Proof.Machine.execUnknownOp s
  | .echo => Sys2Proof.Machine.execEcho s
  | .sessionOpen => Sys2Proof.Machine.execSessionOpen s
  | .sessionClose => Sys2Proof.Machine.execSessionClose s
  | .readConfig => Sys2Proof.Machine.execReadConfig s
  | .stageConfig => Sys2Proof.Machine.execStageConfig s
  | .stageAdd => Sys2Proof.Machine.execStageAdd s
  | .stageModify => Sys2Proof.Machine.execStageModify s
  | .stageDelete => Sys2Proof.Machine.execStageDelete s
  | .listRead => Sys2Proof.Machine.execListRead s
  | .apply => Sys2Proof.Machine.execApply s
  | .discard => Sys2Proof.Machine.execDiscard s
  | .commit => Sys2Proof.Machine.execCommit s
  | .setLock => Sys2Proof.Machine.execSetLock s
  | .eraseProtected => Sys2Proof.Machine.execEraseProtected s
  | .readEntry => Sys2Proof.Machine.execReadEntry s
  | .readBucket => Sys2Proof.Machine.execReadBucket s
  | .readStation => Sys2Proof.Machine.execReadStation s
  | .readCounters => Sys2Proof.Machine.execReadCounters s
  | .clearCounters => Sys2Proof.Machine.execClearCounters s
  | .leaseTake => Sys2Proof.Machine.execLeaseTake s
  | .leaseRenew => Sys2Proof.Machine.execLeaseRenew s
  | .leaseRelease => Sys2Proof.Machine.execLeaseRelease s
  | .leaseStatus => Sys2Proof.Machine.execLeaseStatus s
  | .noticeAck => Sys2Proof.Machine.execNoticeAck s
  | .setMode => Sys2Proof.Machine.execSetMode s
  | .readStore => Sys2Proof.Machine.execReadStore s
  | .restart => Sys2Proof.Machine.execRestart s
  | .restartHoldAndLeasePart => Sys2Proof.Machine.execRestartHoldAndLeasePart s
  | .restartTransactionPart => Sys2Proof.Machine.execRestartTransactionPart s
  | .restartNoticePart p => Sys2Proof.Machine.execRestartNoticePart p s
  | .restartAnswer => Sys2Proof.Machine.execRestartAnswer s
  | .storeWriteEnd result => Sys2Proof.Machine.execStoreWriteEnd result s
  | .storeLimitExpiry => Sys2Proof.Machine.execStoreLimitExpiry s
  | .characterReceived l c => Sys2Proof.Machine.execCharacterReceived l c s

end Sys2Proof.Machine
end

