-- ==== Sys2Proof/Safety.lean ====
section
/-! DEFINITION. The terms the statements use: when a management operation is the one that ends, the
telegrams of spec 01, section 1.9, written with raw codes, and the properties of a state that every
command keeps. -/

namespace Sys2Proof

/-! ## Who may run -/

/-- The five commands that supply, RESET_N and the start-up load cause; every other is a happening of
the running relay (R174). -/
def Instr.isStart : Instr → Bool
  | .powerOn | .powerFail | .resetNFall | .pinReset | .startUpLoadEnd => true
  | _ => false

end Sys2Proof

namespace Sys2Proof.Machine

/-! ## Management operations -/

/-- The relay runs, no RESTART runs, and `m` is the MGT whose slot was taken first (R143). -/
def State.Executes (s : State) (m : Mgt) : Prop :=
  s.phase = .running ∧ s.restart = none ∧ s.slots.head? = some m

/-- The session `x` is open and owned by the port `m` came from (R144). -/
def State.Owns (s : State) (m : Mgt) (x : Session) : Prop := s.session = some x ∧ x.owner = m.port

/-- The MGA of R17 to `m` with a status code of Table 1-6. -/
def Mgt.reply (m : Mgt) (status : Byte) (data : List Byte) : Telegram :=
  { kind := .mga, flags := 0, dest := m.source, source := 63, tag := m.tag,
    object := m.code.setWidth 16, code := status, data := data }

/-- The relay RSP of R14 with a status code of Table 1-5. -/
def relayAnswer (master station tag : Byte) (object : BitVec 16) (status : Byte) : Telegram :=
  { kind := .rsp, flags := 0, dest := master, source := station, tag := tag, object := object,
    code := status, data := [] }

/-- The state after the operation of `m` has answered: its slot is free and its MGA is placed (R143). -/
def State.answered (s : State) (m : Mgt) (status : Byte) (data : List Byte) : State :=
  State.answer m.port [m.reply status data] { s with slots := s.slots.tail }

/-- The data bytes that Table 1-7 asks of a management operation, and the command that is its end; ECHO
takes any length (R9). -/
def mgtLengths : List (Byte × Nat × Instr) :=
  [(0x02, 1, .sessionOpen), (0x03, 0, .sessionClose), (0x04, 2, .readConfig), (0x05, 6, .stageConfig),
   (0x06, 22, .stageAdd), (0x07, 22, .stageModify), (0x08, 3, .stageDelete), (0x09, 1, .listRead),
   (0x0A, 0, .apply), (0x0B, 0, .discard), (0x0C, 0, .commit), (0x0D, 0, .setLock),
   (0x0E, 0, .eraseProtected), (0x0F, 3, .readEntry), (0x10, 1, .readBucket), (0x11, 1, .readStation),
   (0x12, 2, .readCounters), (0x13, 0, .clearCounters), (0x14, 3, .leaseTake), (0x15, 1, .leaseRenew),
   (0x16, 1, .leaseRelease), (0x17, 0, .leaseStatus), (0x18, 2, .noticeAck), (0x19, 1, .setMode),
   (0x1A, 0, .restart), (0x1B, 0, .readStore)]

/-- The operations that need the session: the rows of Table 9-1 with access "session", and
SESSION_CLOSE, which R147 answers alike. -/
def needsSession (code : Byte) : Bool :=
  [0x03, 0x05, 0x06, 0x07, 0x08, 0x09, 0x0A, 0x0B, 0x0C, 0x0D, 0x0E, 0x13, 0x19, 0x1A].contains code

/-! ## Claims of one happening -/

/-- `t` is what the claims of one happening leave of `s`, each of them taken once, one after another in
some order (R128). The count of free orders is the model's own (log 6). -/
def State.TakenInSomeOrder (s : State) (claims : List (State → State)) (t : State) : Prop :=
  ∃ (order : List (State → State)) (n : Nat), order.Perm claims
    ∧ t = order.foldl (fun u claim => claim u) { s with choices := n }

/-- The eight data bytes of an NTC that shows the flags `shown` (R16), with the start cause and start slot
codes of Table 1-9. -/
def NoticeState.data (n : NoticeState) (shown : BitVec 10) : List Byte :=
  [byteOf (shown.toNat / 256), byteOf shown.toNat, n.station, byteOf n.group,
    match n.cause with | .powerOn => 1 | .pin => 2 | .restart => 3,
    match n.startSlot with | some i => (if i = 0 then 0 else 1) | none => 0xFF,
    if n.fallback then 1 else 0, 0]

/-! ## Receiving -/

/-- A receiver that takes characters without stop-bit errors, none of which ends an assembly. -/
def Assembly.feed : Assembly → List Byte → Option Assembly
  | a, [] => some a
  | a, b :: rest =>
    match a.receive ⟨b, false⟩ with
    | .progress next => next.feed rest
    | .framing _ | .telegram _ => none

/-- FRAMING_ERRORS of the link's port is one higher (R25). -/
def State.framingRaised (s : State) : Line → State
  | .control p =>
    { s with
      counters := s.counters.set p
        { s.counters.get p with framingErrors := (s.counters.get p).framingErrors + 1 } }
  | .field =>
    { s with
      fieldCounters := { s.fieldCounters with framingErrors := s.fieldCounters.framingErrors + 1 } }

/-- The relay after the field telegram `t` has been counted and taken as a sign of life, before it is
delivered further (R24, R27, R119). -/
def State.heard (s : State) (t : Telegram) : State :=
  let n := t.source.toNat
  let seen : State := { s with
    rx := s.rx.set .field ⟨.hunt false, s.now⟩
    fieldCounters := { s.fieldCounters with telegramsIn := s.fieldCounters.telegramsIn + 1 } }
  if 1 ≤ n ∧ n ≤ 62 ∧ (s.station n).state = .quarantined then
    State.request .stationReturned (.station t.source) .b
      (State.request .stationReturned (.station t.source) .a
        (seen.withStation n { s.station n with state := .idle, streak := 0, hold := none }))
  else seen

/-! ## Screening by Table 4-2 -/

/-- Check 1: the triple of the REQ is held or in transaction (R61). -/
def State.repeats (s : State) (p : Port) (t : Telegram) : Prop :=
  (∃ r ∈ s.held, r.port = p ∧ r.source = t.source ∧ r.tag = t.tag)
    ∨ ∃ e ∈ s.entries, e.port = p ∧ e.source = t.source ∧ e.tag = t.tag

/-- The rule the screening looks up: that of (destination, object divided by 16) (R64). -/
def State.ruleOf (s : State) (t : Telegram) : Option RuleEntry :=
  (s.table.lookup ⟨t.dest, t.object.toNat / 16⟩).map (·.2)

/-- The four data bytes of a WRITE as one signed value (R5). -/
def signedData (data : List Byte) : Int :=
  (BitVec.ofNat 32 (data.foldl (fun n b => n * 256 + b.toNat) 0)).toInt

/-- Checks 2 to 12 in the order of Table 4-2: whether each fails, and the status it answers. -/
def State.checks (s : State) (p : Port) (t : Telegram) : List (Bool × Byte) :=
  let n := t.dest.toNat
  let len := t.data.length
  let rule := s.ruleOf t
  let acts : Bool := t.code = 2 || t.code = 3
  [ (s.mode = .isolated, 0x8B),
    (n = 0 || 62 < n, 0x87),
    (t.code = 0 || 3 < t.code.toNat, 0x86),
    (t.code = 1 && len != 0 || t.code = 2 && (len = 0 || 32 < len) || t.code = 3 && 32 < len, 0x85),
    (rule.isNone, 0x80),
    (rule.any fun e =>
      t.code = 1 && !(e.ops.get p).read || t.code = 2 && !(e.ops.get p).write
        || t.code = 3 && !(e.ops.get p).trigger, 0x81),
    (rule.any fun e => acts && e.group != 0 && s.holds p.other e.group, 0x82),
    (rule.any fun e => acts && e.group != 0 && (s.lease e.group).isNone, 0x83),
    (rule.any fun e => t.code = 2 && e.limitPresent && len != 4, 0x85),
    (rule.any fun e => t.code = 2 && e.limitPresent
      && (signedData t.data < e.limitLow.toInt || e.limitHigh.toInt < signedData t.data), 0x84),
    ((s.station n).state = .quarantined, 0x88),
    (s.held.length ≥ 40 || (s.held.filter fun r => r.port = p).length ≥ 24, 0x8A),
    (rule.any fun e => (s.meter e.meter).any fun m => m.tokens = 0, 0x89) ]

/-- The status of the first check that fails, if one does (R60, R70). -/
def State.refusal (s : State) (p : Port) (t : Telegram) : Option Byte :=
  ((s.checks p t).find? (·.1)).map (·.2)

/-! ## Eligibility by R95 -/

/-- The held request at place `i` is eligible for dispatch. -/
def State.eligibleAt (s : State) (i : Nat) (r : HeldReq) : Prop :=
  s.held[i]? = some r ∧ (s.station r.station.toNat).state = .idle
    ∧ (∀ j < i, ∀ q, s.held[j]? = some q → ¬(q.port = r.port ∧ q.station = r.station))
    ∧ s.entries.length < 16 ∧ s.fieldTx = none

/-! ## The change list by R153 -/

/-- Whether the item is a CONFIG item of `i`. -/
def ListItem.configures (item : ListItem) (i : ConfigItem) : Bool :=
  match item with
  | .config j _ => j = i
  | .add _ | .modify _ | .delete _ => false

/-- The items tried one by one in staging order, up to the first that fails (R153). -/
def Working.tryAll (w : Working) (role : Role) (lock : Bool) (items : List ListItem) :
    Except ApplyReason Working :=
  items.foldlM (Working.tryItem role lock) w

/-! ## Rule entries, tables and configurations -/

/-- Every field lies in its range of Table 3-1, and absent limits are held as 0 (R35). -/
def RuleEntry.ok (e : RuleEntry) : Prop :=
  e.key.inRange ∧ e.group ≤ 16 ∧ e.meter ≤ 32 ∧ e.timeoutClass ≤ 3
    ∧ e.limitLow.toInt ≤ e.limitHigh.toInt ∧ (e.limitPresent = false → e.limitLow = 0 ∧ e.limitHigh = 0)
    ∧ e.hits ≤ 65535

/-- Each entry of the table is well formed, lies in the bucket of its key (R36) and on the side of `p`
its mark requires (R38), and no other way of its bucket holds its key (R37). -/
def Table.ok (t : Table) (p : Nat) : Prop :=
  ∀ (b : Fin 128) (w : Fin 4), ∀ e ∈ t[b][w],
    e.ok ∧ e.key.bucket = b ∧ (if e.prot then w.val < p else p ≤ w.val)
      ∧ ∀ v : Fin 4, v ≠ w → ∀ e' ∈ t[b][v], e'.key ≠ e.key

/-- Every configuration item holds a member of its range (R157). -/
def Settings.ok (c : Settings) : Prop := ∀ i : ConfigItem, i.inRange (c.get i) = true

/-- A staged item: its entry, key or value is in range (R151), and staged entries carry hit count 0. -/
def ListItem.ok : ListItem → Prop
  | .add e | .modify e => e.ok ∧ e.hits = 0
  | .delete k => k.inRange
  | .config i v => i.inRange v

/-- An image: a configuration and a table that fit, with every hit count 0 (R164). -/
def Image.ok (i : Image) : Prop :=
  i.settings.ok ∧ i.table.ok i.settings.protectedWays
    ∧ ∀ (b : Fin 128) (w : Fin 4), ∀ e ∈ i.table[b][w], e.hits = 0

/-- The image of a slot. -/
def ImageSlot.image? : ImageSlot → Option Image
  | .valid _ i => some i
  | .erased | .writing => none

/-! ## Properties that every command keeps -/

/-- The live table and configuration, every image and every staged item fit (R35 to R38, R157, R164). -/
structure State.TablesOk (s : State) : Prop where
  settings : s.settings.ok
  table : s.table.ok s.settings.protectedWays
  slot0 : ∀ i ∈ s.store.slot0.image?, i.ok
  slot1 : ∀ i ∈ s.store.slot1.image?, i.ok
  written : ∀ op ∈ s.store.op, op.image.ok
  staged : ∀ x ∈ s.session, ∀ item ∈ x.list, item.ok

/-- The triple that check 1 compares, of a held request (R61). -/
def HeldReq.triple (r : HeldReq) : Port × Byte × Byte := (r.port, r.source, r.tag)

/-- The triple that check 1 compares, of a transaction (R61). -/
def Entry.triple (e : Entry) : Port × Byte × Byte := (e.port, e.source, e.tag)

/-- R93: the bounds of the hold queue, and no triple twice among held requests and transactions. -/
structure State.HeldOk (s : State) : Prop where
  total : s.held.length ≤ 40
  perPort : ∀ p : Port, (s.held.filter fun r => r.port = p).length ≤ 24
  triples : (s.held.map HeldReq.triple ++ s.entries.map Entry.triple).Nodup

/-- R100: a held WRITE or TRIGGER with a recorded group stands there only while its port holds it. -/
def State.LeasesOk (s : State) : Prop :=
  ∀ r ∈ s.held, r.op ≠ .read → r.group ≠ 0 → ∃ l, s.lease r.group = some l ∧ l.holder = r.port

/-- R108, R118 and R93: the transaction table, the stations it keeps BUSY, the hold timers of the
quarantined ones, and no request held for one of those. -/
structure State.StationsOk (s : State) : Prop where
  few : s.entries.length ≤ 16
  tags : (s.entries.map Entry.relayTag).Nodup
  apart : (s.entries.map Entry.station).Nodup
  named : ∀ e ∈ s.entries, isFieldStation e.station
  heldFor : ∀ r ∈ s.held, isFieldStation r.station
  busy : ∀ n : Byte, isFieldStation n →
    ((s.station n.toNat).state = .busy ↔ ∃ e ∈ s.entries, e.station = n)
  hold : ∀ n : Byte, isFieldStation n →
    ((s.station n.toNat).state = .quarantined ↔ (s.station n.toNat).hold.isSome)
  receivable : ∀ r ∈ s.held, (s.station r.station.toNat).state ≠ .quarantined
  streak : ∀ n : Byte, isFieldStation n → (s.station n.toNat).streak ≤ 15

/-- The reservations of port `p` that some block still holds: REQs waiting for their screening, MGTs in
slots, held requests, transactions, the store operation, and what was handed to the output unit: answers
not placed and reservations not released (R126, R57, R60). -/
def State.owed (s : State) (p : Port) : Nat :=
  (s.toScreen.get p).length + (s.slots.filter fun m => m.port = p).length
    + (s.held.filter fun r => r.port = p).length + (s.entries.filter fun e => e.port = p).length
    + (s.store.op.toList.filter fun op => op.port = p).length + (s.output p).handed.length
    + (s.output p).handedBack

/-- An output unit: its bounds, the kinds of its sections, and a transmitter that is IDLE only while
nothing is placed and else sends the head of the section it took from (R126, R129, R130). -/
structure OutputUnit.Ok (o : OutputUnit) : Prop where
  places : o.used ≤ 40
  events : o.events.length ≤ 16
  answerKinds : ∀ t ∈ o.handed ++ o.answers, t.kind = .rsp ∨ t.kind = .mga
  eventKinds : ∀ t ∈ o.events, t.kind = .evt ∨ t.kind = .ntc
  idle : o.sending = none → o.answers = [] ∧ o.events = []
  head : ∀ x ∈ o.sending,
    (match x.part with | .answer => o.answers.head? | .event => o.events.head?) = some x.telegram
  run : o.answerRun ≤ 4

/-- R126 and R142: both output units, a reservation for exactly what is still owed, and two slots. -/
structure State.AnswersOk (s : State) : Prop where
  unit : ∀ p : Port, (s.outputs.get p).Ok
  reserved : ∀ p : Port, (s.outputs.get p).reserved = s.owed p
  slots : s.slots.length ≤ 2

/-- R163 and R165: what the store holds while an operation is in flight, the order of the generations,
and the failure count. -/
structure State.StoreOk (s : State) : Prop where
  target : ∀ op ∈ s.store.op, s.store.slot op.target = .writing
  newer : ∀ op ∈ s.store.op, ∀ x ∈ s.store.newest, x.2.1 < op.generation
  width : ∀ x ∈ s.store.newest, x.2.1 ≤ 4294967295
  written : ∀ op ∈ s.store.op, op.generation ≤ 4294967295
  failures : s.store.failures ≤ 3
  faulted : s.store.failures = 3 → s.store.faulted = true
  started : s.store.op.isSome → s.store.failures < 3

/-- R150 and R151: no INTEGRATOR session stands beside a set lock, the list holds at most 32 items, and an
OPERATOR's list holds no item of PROTECTED_WAYS (R152). -/
def State.SessionOk (s : State) : Prop :=
  ∀ x ∈ s.session, (x.role = .integrator → s.lock = false) ∧ x.list.length ≤ 32
    ∧ (x.role = .operator → ∀ v, ListItem.config .protectedWays v ∉ x.list)

/-- R72 and R73: tokens between 0 and the size, and a refill timer that runs while they are below it. -/
def State.MetersOk (s : State) : Prop :=
  ∀ n : Fin 32, (s.meters[n]).tokens ≤ (s.meters[n]).size
    ∧ ((s.meters[n]).refill.isSome ↔ (s.meters[n]).tokens < (s.meters[n]).size)

/-- R136, R139 and R141: while an enabled flag is pending on a port its repeat timer runs, but for the time
between the reload of a RESTART and the port's part of it. -/
def State.NoticesOk (s : State) : Prop :=
  ∀ p : Port, (∀ r ∈ s.restart, r.noticeDone.get p = true) → s.announces p = true →
    (s.notice p).timer.isSome

end Sys2Proof.Machine
end

