-- ==== Sys2Proof/Certificates/Slice0/Obligations.lean ====
section
/-! DEFINITION. The statements for the provers, in the order of the spec's chapters. Codes, lengths and
times are written as the numbers of the spec's tables; a time in ms is 32000 REFCLK periods. A state
written `{ s with … }` is equal to `s` in every field it does not name: that is the frame of the command. -/

section
open Sys2Proof Sys2Proof.Machine

/-! ## The step, and the phases of the relay -/

/-- 95_what_each_step_holds.md: a command is taken whole, at the front of the queue. On an empty queue a
step is one REFCLK period: that clause is the model's choice (log 2). -/
def Obligations.StepRunsTheFrontCommand : Prop :=
  (∀ (c : Instr) (rest : List Instr) (s : State), s.pending = c :: rest →
      step s = exec c { s with pending := rest })
    ∧ ∀ s : State, s.pending = [] → step s = .next { s with now := s.now + 1 }

/-- R174: while RESET_N is low, the supply is out or a load is under way, the relay takes no happening
but those of supply, RESET_N and the load. -/
def Obligations.HeldRelayTakesNothing : Prop :=
  ∀ (c : Instr) (s : State), c.isStart = false → s.phase ≠ .running → exec c s = .next s

/-- The start values of R21, R31, R34, R54, R59, R76, R91, R107, R124, R140, R141, R162 and R165 and the
defaults of Table 9-3. That State.reset is the relay as delivered after its first power-on is the
model's choice (log 5). -/
def Obligations.ResetHoldsTheStartValues : Prop :=
  let s := State.reset
  (∀ l, (s.rx.get l).assembly = .hunt false) ∧ (∀ p, s.links.get p = .down)
    ∧ (∀ (b : Fin 128) (w : Fin 4), s.table[b][w] = none) ∧ s.lock = false ∧ s.mode = .isolated
    ∧ (∀ n : Fin 32, (s.meters[n]).tokens = 16 ∧ (s.meters[n]).refill = none)
    ∧ (∀ g, s.lease g = none) ∧ s.held = [] ∧ s.credits = ⟨1, 1⟩ ∧ s.lastShare = .b ∧ s.fieldTx = none
    ∧ s.fieldEnd = none ∧ s.entries = [] ∧ s.tagCounter = 0 ∧ (∀ n, s.station n = ⟨.idle, 0, none, 0, 0⟩)
    ∧ (∀ p, (s.output p).answers = [] ∧ (s.output p).handed = [] ∧ (s.output p).reserved = 0
        ∧ (s.output p).handedBack = 0 ∧ (s.output p).gap = false
        ∧ (s.output p).answerRun = 0)
    ∧ (∀ p, (s.notice p).flags = 0x200 ∧ (s.notice p).station = 0 ∧ (s.notice p).group = 0
        ∧ (s.notice p).cause = .powerOn ∧ (s.notice p).startSlot = none ∧ (s.notice p).fallback = false
        ∧ (s.notice p).seq = 1 ∧ (s.notice p).timer = some 32000000)
    ∧ s.slots = [] ∧ s.session = none ∧ (∀ p, s.counters.get p = ⟨0, 0, 0, 0, 0, 0, 0, 0⟩)
    ∧ s.fieldCounters = ⟨0, 0, 0, 0, 0, 0⟩ ∧ s.store = ⟨.erased, .erased, none, 0, false⟩
    ∧ (∀ l, s.settings.get (.rate l) = 1000000 ∧ s.runningRate.get l = 1000000)
    ∧ s.settings.get .frameGap = 30 ∧ s.runningGap = 30 ∧ s.settings.get .silenceTime = 500
    ∧ (∀ p, s.settings.get (.share p) = 1 ∧ s.settings.get (.noticeMask p) = 0x3FF)
    ∧ s.settings.timeoutClass = #v[20, 100, 500, 2000] ∧ s.settings.get .quarantineLimit = 3
    ∧ s.settings.get .quarantineHold = 10 ∧ s.settings.get .leaseMax = 5000
    ∧ s.settings.get .sessionIdle = 60 ∧ s.settings.get .noticeRepeat = 1000
    ∧ s.settings.get .protectedWays = 0 ∧ s.settings.get .startMode = 0
    ∧ ∀ n, s.settings.get (.meterSize n) = 16 ∧ s.settings.get (.meterPeriod n) = 100

/-- R174: POWER_ON, POWER_FAIL, RESET_N_FALL and PIN_RESET, from the states in which their pin can move.
What the kinds of start keep is Table 10-5; a lost queue, session, lease or entry is gone. Three points
are the model's choice: the moment that a low level must last moves the clock (log 8); the cause of the
start after PIN_RESET is POWER_ON exactly when the supply left its range since the last load began
(log 9); and what POWER_FAIL loses, the counters, the failures and the stations among it, holds start
values already while no load has ended (log 10). -/
def Obligations.SupplyAndResetPin : Prop :=
  ∀ s : State,
    (s.supply = false → s.resetLow = none →
      exec .powerOn s
        = .next { s with supply := true, supplyLost := false, phase := .loading .powerOn })
    ∧ (s.supply = false → s.resetLow ≠ none → exec .powerOn s = .next { s with supply := true, phase := .held })
    ∧ (s.supply = true → ∃ t, exec .powerFail s = .next t ∧ t.phase = .held ∧ t.supply = false
        ∧ t.supplyLost = true ∧ t.resetLow = s.resetLow ∧ t.store.slot0 = s.store.slot0
        ∧ t.store.slot1 = s.store.slot1 ∧ t.store.op = none ∧ t.store.failures = 0
        ∧ t.store.faulted = false ∧ t.counters = .both .zero ∧ t.fieldCounters = .zero
        ∧ (∀ n, t.station n = .fresh) ∧ t.held = [] ∧ t.entries = [] ∧ t.slots = [] ∧ t.session = none
        ∧ t.restart = none ∧ (∀ g, t.lease g = none) ∧ (∀ l, t.txLevel l = true) ∧ t.now = s.now)
    ∧ (s.supply = false → s.resetLow = none →
      exec .resetNFall s = .next { s with resetLow := some s.now })
    ∧ (s.supply = true → s.resetLow = none → ∃ t, exec .resetNFall s = .next t ∧ t.phase = .held
        ∧ t.resetLow = some s.now ∧ t.supply = true ∧ t.supplyLost = s.supplyLost
        ∧ t.store = { s.store with op := none } ∧ t.counters = s.counters
        ∧ t.fieldCounters = s.fieldCounters
        ∧ (∀ n, t.station n = { s.station n with state := .idle, streak := 0, hold := none })
        ∧ t.held = [] ∧ t.entries = [] ∧ t.slots = [] ∧ t.session = none ∧ t.restart = none
        ∧ (∀ g, t.lease g = none) ∧ (∀ l, t.txLevel l = true) ∧ t.now = s.now)
    ∧ (∀ fell, s.resetLow = some fell → s.supply = true →
      exec .pinReset s = .next { s with
        now := max s.now (fell + 320), resetLow := none, supplyLost := false,
        phase := .loading (if s.supplyLost then .powerOn else .pin) })
    ∧ (∀ fell, s.resetLow = some fell → s.supply = false →
      exec .pinReset s = .next { s with now := max s.now (fell + 320), resetLow := none })

/-- R175, R176 and the start values of every block: the end of a start-up load. No REQ, announcement or hit
raise waits, no RESTART runs, and a port whose mask disables STARTED sends nothing. -/
def Obligations.StartUpLoadEnds : Prop :=
  ∀ (s : State) (cause : StartCause), s.phase = .loading cause → cause = .powerOn ∨ cause = .pin →
    ∃ t, exec .startUpLoadEnd s = .next t ∧ t.phase = .running
      ∧ (∀ i g image, s.store.newest = some (i, g, image) → t.settings = image.settings
          ∧ t.lock = image.lock
          ∧ (∀ (b : Fin 128) (w : Fin 4),
              t.table[b][w] = (image.table[b][w]).map fun e => { e with hits := 0 })
          ∧ ∀ p, (t.notice p).startSlot = some i)
      ∧ (s.store.newest = none → t.settings = .default ∧ t.lock = false ∧ t.table = .blank
          ∧ ∀ p, (t.notice p).startSlot = none)
      ∧ t.runningRate = t.settings.rate ∧ t.runningGap = t.settings.frameGap
      ∧ t.mode = t.settings.startMode ∧ t.credits = t.settings.share ∧ t.lastShare = .b
      ∧ (∀ n : Fin 32, t.meters[n]
          = ⟨t.settings.meterSize[n], t.settings.meterPeriod[n], t.settings.meterSize[n], none⟩)
      ∧ (∀ l, (t.rx.get l).assembly = .hunt false) ∧ (∀ p, t.links.get p = .down)
      ∧ (∀ g, t.lease g = none) ∧ t.held = [] ∧ t.entries = [] ∧ t.tagCounter = 0 ∧ t.fieldTx = none
      ∧ t.fieldEnd = none ∧ (∀ p, (t.output p).handed = [] ∧ (t.output p).handedBack = 0)
      ∧ (∀ p, t.toScreen.get p = [] ∧ t.leaseDown.get p = 0 ∧ t.sessionDown.get p = 0
          ∧ t.noticeDown.get p = 0)
      ∧ t.hitRaises = [] ∧ t.isolatedPurges = 0
      ∧ t.slots = [] ∧ t.session = none ∧ t.restart = none
      ∧ t.store.slot0 = s.store.slot0 ∧ t.store.slot1 = s.store.slot1 ∧ t.store.op = none
      ∧ (∀ n, (t.station n).state = .idle ∧ (t.station n).streak = 0 ∧ (t.station n).hold = none)
      ∧ (cause = .pin → t.counters = s.counters ∧ t.fieldCounters = s.fieldCounters
          ∧ t.store.failures = s.store.failures ∧ t.store.faulted = s.store.faulted
          ∧ ∀ n, (t.station n).timeouts = (s.station n).timeouts
              ∧ (t.station n).unmatched = (s.station n).unmatched)
      ∧ (cause = .powerOn → t.counters = .both .zero ∧ t.fieldCounters = .zero ∧ t.store.failures = 0
          ∧ t.store.faulted = false ∧ ∀ n, t.station n = .fresh)
      ∧ (∀ p, (t.output p).answers = [] ∧ (t.output p).reserved = 0 ∧ (t.output p).gap = false
          ∧ (t.output p).answerRun = 0
          ∧ (t.notice p).flags = 0x200 ∧ (t.notice p).station = 0 ∧ (t.notice p).group = 0
          ∧ (t.notice p).cause = cause
          ∧ ((t.notice p).fallback = true ↔ s.store.slot0 = .writing ∨ s.store.slot1 = .writing))
      ∧ ∀ p, if (t.settings.noticeMask.get p).getLsbD 9 then
          (t.notice p).seq = 1 ∧ (t.output p).events.length = 1 ∧ (t.output p).sending.isSome
            ∧ (t.notice p).timer = some (t.now + 32000 * t.settings.noticeRepeat)
        else (t.notice p).seq = 0 ∧ (t.output p).events = [] ∧ (t.output p).sending = none
          ∧ (t.notice p).timer = none

/-! ## Telegrams and links (spec 01, spec 02) -/

/-- R1 to R3, R20 to R24: whatever telegram the relay builds, with L up to the maximum of its kind, a
receiver in HUNT that takes its bytes assembles it and ends, at its last byte, with exactly it. The bytes
are those of Table 1-1, with the kind codes and maxima of Table 1-2 and every field most significant byte
first; the check is the register of R2 over bytes 1 to 8 + L: it starts at 0xFFFF and takes each byte from
its most significant bit to its least, each bit by the shift and the 0x1021 of R2's step 3. -/
def Obligations.ReceiverAssemblesWhatIsSent : Prop :=
  (∀ (t : Telegram) (mark : Bool),
    t.data.length ≤ (match t.kind with | .req | .rsp | .evt => 32 | .mgt | .mga | .ntc => 56) →
    ∃ (front : List Byte) (last : Byte) (a : Assembly), t.bytes = front ++ [last]
      ∧ (Assembly.hunt mark).feed front = some a ∧ a.receive ⟨last, false⟩ = .telegram t)
  ∧ (∀ t : Telegram,
    let kind := match t.kind with
      | .req => 1 | .rsp => 2 | .evt => 3 | .mgt => 4 | .mga => 5 | .ntc => 6
    let covered := [byteOf (kind * 16 + t.flags.toNat), t.dest, t.source, t.tag,
      byteOf (t.object.toNat / 256), byteOf t.object.toNat, t.code, byteOf t.data.length] ++ t.data
    t.bytes = 0xA7 :: covered
      ++ [byteOf ((crc covered).toNat / 256), byteOf (crc covered).toNat])
  ∧ crc [] = 0xFFFF
  ∧ ∀ (bytes : List Byte) (b : Byte),
    let step := fun (register : BitVec 16) (n : Nat) =>
      if register.getLsbD 15 ≠ b.getLsbD n then (register <<< 1) ^^^ 0x1021 else register <<< 1
    crc (bytes ++ [b])
      = step (step (step (step (step (step (step (step (crc bytes) 7) 6) 5) 4) 3) 2) 1) 0

/-- R10 and R11: the encodings of management data, and their numbers as Table 1-8, Table 1-10 and Table 9-3
write them. An entry within Table 3-1 is the 22 bytes of Table 1-10, and reading them gives the entry back
with hit count 0; 22 bytes carry an entry exactly when each field lies in its range; an item number names
the one configuration item of Table 1-8; the range of each item is that of Table 9-3; the data of
STAGE_CONFIG names its item and its value when the number stands in Table 1-8 and the value lies in the
item's range, and else nothing; three bytes carry a key exactly when station and block lie in their ranges. -/
def Obligations.ManagementEncodingsAgree : Prop :=
  (∀ e : RuleEntry, e.ok → e.bytes.length = 22 ∧ parseEntry e.bytes = some { e with hits := 0 })
    ∧ (∀ e : RuleEntry,
      let bits := fun (x y z : Bool) => byteOf (x.toNat + 2 * y.toNat + 4 * z.toNat)
      let low := if e.limitPresent then e.limitLow.toNat else 0
      let high := if e.limitPresent then e.limitHigh.toNat else 0
      e.bytes = [e.station, byteOf (e.block / 256), byteOf e.block, bits e.prot e.limitPresent false,
        bits e.ops.a.read e.ops.a.write e.ops.a.trigger, bits e.ops.b.read e.ops.b.write e.ops.b.trigger,
        byteOf e.group, byteOf e.meter, byteOf e.timeoutClass,
        match e.route with | .none => 0 | .a => 1 | .b => 2 | .both => 3,
        byteOf (low / 16777216), byteOf (low / 65536), byteOf (low / 256), byteOf low,
        byteOf (high / 16777216), byteOf (high / 65536), byteOf (high / 256), byteOf high,
        byteOf (e.hits / 256), byteOf e.hits, 0, 0])
    ∧ (∀ station bh bl attr opsA opsB group meter cls route l3 l2 l1 l0 h3 h2 h1 h0 x18 x19 x20 x21 : Byte,
      let block := bh.toNat * 256 + bl.toNat
      let limited := attr.getLsbD 1
      let low : BitVec 32 := if limited then l3 ++ l2 ++ l1 ++ l0 else 0
      let high : BitVec 32 := if limited then h3 ++ h2 ++ h1 ++ h0 else 0
      let ops := fun b : Byte => OpSet.mk (b.getLsbD 0) (b.getLsbD 1) (b.getLsbD 2)
      let fits := 1 ≤ station.toNat ∧ station.toNat ≤ 62 ∧ block ≤ 4095 ∧ group.toNat ≤ 16
        ∧ meter.toNat ≤ 32 ∧ cls.toNat ≤ 3 ∧ route.toNat ≤ 3 ∧ low.toInt ≤ high.toInt
      let read := parseEntry [station, bh, bl, attr, opsA, opsB, group, meter, cls, route,
        l3, l2, l1, l0, h3, h2, h1, h0, x18, x19, x20, x21]
      (¬fits → read = none)
      ∧ (fits → read = some {
          station := station, block := block, prot := attr.getLsbD 0, limitPresent := limited
          ops := ⟨ops opsA, ops opsB⟩, group := group.toNat, meter := meter.toNat
          timeoutClass := cls.toNat
          route := if route = 0 then .none else if route = 1 then .a else if route = 2 then .b else .both
          limitLow := low, limitHigh := high, hits := 0 }))
    ∧ (∀ (n : Nat) (i : ConfigItem), ConfigItem.ofNumber n = some i ↔ n = i.number)
    ∧ (∀ (n : Nat) (i : ConfigItem), i.number = n ↔
      (n = 0x0001 ∧ i = .rate (.control .a)) ∨ (n = 0x0002 ∧ i = .rate (.control .b))
      ∨ (n = 0x0003 ∧ i = .rate .field) ∨ (n = 0x0004 ∧ i = .frameGap) ∨ (n = 0x0005 ∧ i = .silenceTime)
      ∨ (n = 0x0006 ∧ i = .share .a) ∨ (n = 0x0007 ∧ i = .share .b) ∨ (n = 0x0008 ∧ i = .timeoutClass 0)
      ∨ (n = 0x0009 ∧ i = .timeoutClass 1) ∨ (n = 0x000A ∧ i = .timeoutClass 2)
      ∨ (n = 0x000B ∧ i = .timeoutClass 3) ∨ (n = 0x000C ∧ i = .quarantineLimit)
      ∨ (n = 0x000D ∧ i = .quarantineHold) ∨ (n = 0x000E ∧ i = .leaseMax) ∨ (n = 0x000F ∧ i = .sessionIdle)
      ∨ (n = 0x0010 ∧ i = .noticeMask .a) ∨ (n = 0x0011 ∧ i = .noticeMask .b)
      ∨ (n = 0x0012 ∧ i = .noticeRepeat) ∨ (n = 0x0013 ∧ i = .protectedWays) ∨ (n = 0x0014 ∧ i = .startMode)
      ∨ (∃ k : Fin 32, n = 0x0100 + (k.val + 1) ∧ i = .meterSize k)
      ∨ ∃ k : Fin 32, n = 0x0200 + (k.val + 1) ∧ i = .meterPeriod k)
    ∧ (∀ v : Nat,
      (∀ l, (ConfigItem.rate l).inRange v = true ↔ v = 62500 ∨ v = 125000 ∨ v = 250000 ∨ v = 500000
        ∨ v = 1000000 ∨ v = 2000000)
      ∧ (ConfigItem.frameGap.inRange v = true ↔ 12 ≤ v ∧ v ≤ 255)
      ∧ (ConfigItem.silenceTime.inRange v = true ↔ 20 ≤ v ∧ v ≤ 2550 ∧ v % 10 = 0)
      ∧ (∀ p, (ConfigItem.share p).inRange v = true ↔ 1 ≤ v ∧ v ≤ 15)
      ∧ (∀ c, (ConfigItem.timeoutClass c).inRange v = true ↔ 2 ≤ v ∧ v ≤ 5000)
      ∧ (ConfigItem.quarantineLimit.inRange v = true ↔ 1 ≤ v ∧ v ≤ 15)
      ∧ (ConfigItem.quarantineHold.inRange v = true ↔ 1 ≤ v ∧ v ≤ 255)
      ∧ (ConfigItem.leaseMax.inRange v = true ↔ 100 ≤ v ∧ v ≤ 60000)
      ∧ (ConfigItem.sessionIdle.inRange v = true ↔ 5 ≤ v ∧ v ≤ 255)
      ∧ (∀ p, (ConfigItem.noticeMask p).inRange v = true ↔ v ≤ 0x3FF)
      ∧ (ConfigItem.noticeRepeat.inRange v = true ↔ 100 ≤ v ∧ v ≤ 25500 ∧ v % 100 = 0)
      ∧ (ConfigItem.protectedWays.inRange v = true ↔ v ≤ 2)
      ∧ (ConfigItem.startMode.inRange v = true ↔ v ≤ 1)
      ∧ (∀ n, (ConfigItem.meterSize n).inRange v = true ↔ 1 ≤ v ∧ v ≤ 255)
      ∧ ∀ n, (ConfigItem.meterPeriod n).inRange v = true ↔ 1 ≤ v ∧ v ≤ 65535)
    ∧ (∀ (i : ConfigItem) (v : Nat), i.inRange v = true →
        parseConfig (be16 i.number ++ be32 v) = some (.config i v))
    ∧ (∀ nh nl v3 v2 v1 v0 : Byte,
      let n := nh.toNat * 256 + nl.toNat
      let v := v3.toNat * 16777216 + v2.toNat * 65536 + v1.toNat * 256 + v0.toNat
      let read := parseConfig [nh, nl, v3, v2, v1, v0]
      (¬(1 ≤ n ∧ n ≤ 0x14 ∨ 0x101 ≤ n ∧ n ≤ 0x120 ∨ 0x201 ≤ n ∧ n ≤ 0x220) → read = none)
      ∧ ∀ i : ConfigItem, i.number = n → read = if i.inRange v then some (.config i v) else none)
    ∧ ∀ station bh bl : Byte,
      let fits := 1 ≤ station.toNat ∧ station.toNat ≤ 62 ∧ bh.toNat * 256 + bl.toNat ≤ 4095
      (fits → parseKey [station, bh, bl] = some ⟨station, bh.toNat * 256 + bl.toNat⟩)
      ∧ (¬fits → parseKey [station, bh, bl] = none)

/-- R22: a character in HUNT, and a pause over the frame gap in HUNT. -/
def Obligations.HuntTakesACharacter : Prop :=
  ∀ (s : State) (l : Line) (c : Character) (mark : Bool), s.phase = .running →
    (s.rx.get l).assembly = .hunt mark →
    (c = ⟨0xA7, false⟩ →
      exec (.characterReceived l c) s = .next { s with rx := s.rx.set l ⟨.header [0xA7], s.now⟩ })
    ∧ (c ≠ ⟨0xA7, false⟩ → mark = false →
      exec (.framingError l c) s
        = .next ({ s with rx := s.rx.set l ⟨.hunt true, s.now⟩ }.framingRaised l))
    ∧ (c ≠ ⟨0xA7, false⟩ → mark = true →
      exec (.characterReceived l c) s = .next { s with rx := s.rx.set l ⟨.hunt true, s.now⟩ })
    ∧ ∃ now, exec (.frameGapPause l) s
        = .next { s with now := now, rx := s.rx.set l ⟨.hunt false, (s.rx.get l).pauseFrom⟩ }

/-- R23, R24 and R25: a character in HEADER, with the kind codes and maxima of Table 1-2; a character in BODY,
with the check of R2 over bytes 1 to 8 + L; and a character with a stop-bit error in either. -/
def Obligations.AssemblyTakesACharacter : Prop :=
  ∀ (s : State) (l : Line) (b : Byte) (bytes : List Byte), s.phase = .running →
    let goesTo := fun a : Assembly =>
      exec (.characterReceived l ⟨b, false⟩) s = .next { s with rx := s.rx.set l ⟨a, s.now⟩ }
    let fails := fun (stopError mark : Bool) =>
      exec (.framingError l ⟨b, stopError⟩) s
        = .next ({ s with rx := s.rx.set l ⟨.hunt mark, s.now⟩ }.framingRaised l)
    ((s.rx.get l).assembly = .header bytes →
      (bytes.length = 1 → 1 ≤ b.toNat / 16 → b.toNat / 16 ≤ 6 → goesTo (.header (bytes ++ [b])))
      ∧ (bytes.length = 1 → b.toNat / 16 = 0 ∨ 7 ≤ b.toNat / 16 → fails false true)
      ∧ (bytes.length ≠ 1 → bytes.length ≠ 8 → goesTo (.header (bytes ++ [b])))
      ∧ ∀ b1 : Byte, bytes.length = 8 → bytes[1]? = some b1 → 1 ≤ b1.toNat / 16 → b1.toNat / 16 ≤ 6 →
        let most := if b1.toNat / 16 ≤ 3 then 32 else 56
        (b.toNat ≤ most → goesTo (.body (bytes ++ [b]))) ∧ (most < b.toNat → fails false true))
    ∧ ((s.rx.get l).assembly = .body bytes → ∀ len : Byte, bytes[8]? = some len →
      (bytes.length + 1 < 11 + len.toNat → goesTo (.body (bytes ++ [b])))
      ∧ (bytes.length + 1 = 11 + len.toNat →
        (bytes ++ [b]).drop (9 + len.toNat)
          ≠ be16 (crc (((bytes ++ [b]).drop 1).take (8 + len.toNat))).toNat → fails false false))
    ∧ ((s.rx.get l).assembly = .header bytes ∨ (s.rx.get l).assembly = .body bytes → fails true true)

/-- R25: a pause over the frame gap in HEADER or BODY truncates the telegram. That the clock moves up to
the moment the pause exceeds the running gap, counted in the link's own bit times (R18, R20), is the
model's choice (log 3). -/
def Obligations.PauseTruncates : Prop :=
  ∀ (s : State) (l : Line) (bytes : List Byte), s.phase = .running →
    (s.rx.get l).assembly = .header bytes ∨ (s.rx.get l).assembly = .body bytes →
    let exceeds := (s.rx.get l).pauseFrom + s.runningGap * (32000000 / s.runningRate.get l) + 1
    exec (.frameGapPause l) s
      = .next ({ s with
          now := max s.now exceeds
          rx := s.rx.set l ⟨.hunt false, (s.rx.get l).pauseFrom⟩ }.framingRaised l)

/-- R24, R26, R28, R127 and R142: the last byte of a well-formed telegram on a control port. The telegram is
counted and reported to the supervisor whatever its kind, and then delivered by its kind. -/
def Obligations.ControlTelegramIsDelivered : Prop :=
  ∀ (s : State) (p : Port) (last : Byte) (t : Telegram), s.phase = .running →
    (s.rx.get (.control p)).assembly.receive ⟨last, false⟩ = .telegram t →
    let heard : State := { s with
      rx := s.rx.set (.control p) ⟨.hunt false, s.now⟩
      counters := s.counters.set p
        { s.counters.get p with telegramsIn := (s.counters.get p).telegramsIn + 1 }
      links := s.links.set p (.up (s.now + 32000 * s.settings.silenceTime)) }
    let up : State := if s.links.get p = .down then heard.request .peerUp .nothing p.other else heard
    let reserved : State := up.withOutput p { s.output p with reserved := (s.output p).reserved + 1 }
    let m : Mgt := ⟨p, t.source, t.tag, t.code, t.data⟩
    let touched : Option Session := s.session.map fun x =>
      if x.owner = p then { x with idle := s.now + 32000000 * s.settings.sessionIdle } else x
    (t.kind = .req → (s.output p).used < 40 →
      exec (.controlTelegram p last) s
        = .next { reserved with toScreen := s.toScreen.set p (s.toScreen.get p ++ [t]) })
    ∧ (t.kind = .mgt → (s.output p).used < 40 → s.slots.length < 2 →
      exec (.controlTelegram p last) s
        = .next { reserved with slots := s.slots ++ [m], session := touched })
    ∧ (t.kind = .mgt → (s.output p).used < 40 → 2 ≤ s.slots.length →
      exec (.controlTelegram p last) s
        = .next (State.answer p [m.reply 0x9C []] { reserved with session := touched }))
    ∧ (t.kind = .req ∨ t.kind = .mgt → 40 ≤ (s.output p).used →
      exec (.controlTelegram p last) s
        = .next { up with
            counters := up.counters.set p
              { up.counters.get p with overruns := (s.counters.get p).overruns + 1 } })
    ∧ (t.kind ≠ .req → t.kind ≠ .mgt →
      exec (.controlTelegram p last) s
        = .next { up with
            counters := up.counters.set p
              { up.counters.get p with wrongKind := (s.counters.get p).wrongKind + 1 } })

/-- R29: the silence timer of an UP link runs out, on time or taken late (log 3), and the change is announced
to the lease table, the management processor and the notice unit. The notice unit takes its announcement
as a happening of its own, on whatever link state it meets, and PEER_DOWN is requested on the other port;
that this is a command of the same row is the model's choice (log 21). -/
def Obligations.SilenceBringsTheLinkDown : Prop :=
  (∀ (s : State) (p : Port) (due : Nat), s.phase = .running → s.links.get p = .up due →
    exec (.silenceTimerExpiry (.expiry p)) s = .next { s with
      now := max s.now due
      links := s.links.set p .down
      leaseDown := s.leaseDown.set p (s.leaseDown.get p + 1)
      sessionDown := s.sessionDown.set p (s.sessionDown.get p + 1)
      noticeDown := s.noticeDown.set p (s.noticeDown.get p + 1) })
  ∧ ∀ (s : State) (p : Port) (n : Nat), s.phase = .running → s.noticeDown.get p = n + 1 →
    exec (.silenceTimerExpiry (.notice p)) s
      = .next (State.request .peerDown .nothing p.other { s with noticeDown := s.noticeDown.set p n })

/-- R86, R88, R89 and R103: the lease table takes a DOWN announcement of port `p`. Every group of the port is
free; its held WRITEs and TRIGGERs under those groups are answered LEASE_LOST in one run, in order of
admission; LEASE_LOST is requested once, with the lowest group. The run and the notice may be placed in
either order (R128). -/
def Obligations.LinkDownFreesTheLeases : Prop :=
  ∀ (s : State) (p : Port) (n : Nat), s.phase = .running → s.leaseDown.get p = n + 1 →
    let lost := fun r : HeldReq => r.port = p ∧ r.op ≠ .read ∧ s.holds p r.group = true
    let run := (s.held.filter lost).map fun r => relayAnswer r.source r.station r.tag r.object 0x8D
    ((∀ g, s.holds p g = false) →
      exec (.leaseReleaseOnLinkDown p) s = .next { s with leaseDown := s.leaseDown.set p n })
    ∧ ∀ g, s.holds p g = true → (∀ h < g, s.holds p h = false) →
      ∃ t leases, exec (.leaseReleaseOnLinkDown p) s = .next t
        ∧ (∀ k, State.lease { s with leases := leases } k = if s.holds p k then none else s.lease k)
        ∧ State.TakenInSomeOrder { s with
            leaseDown := s.leaseDown.set p n, leases := leases
            held := s.held.filter fun r => ¬lost r }
          [State.answer p run, State.request .leaseLost (.group g) p] t

/-! ## Rule table, screening and meters (spec 03, spec 04) -/

/-- R40 and R47: a raise that was asked for is taken at the entry that now holds the key, staying at 65535,
and at nothing when no entry holds it. -/
def Obligations.HitRaiseCountsAtTheKey : Prop :=
  ∀ (s : State) (station : Byte) (block : Nat), s.phase = .running → ⟨station, block⟩ ∈ s.hitRaises →
    (s.table.lookup ⟨station, block⟩ = none →
      exec (.hitCountRaise station block) s
        = .next { s with hitRaises := s.hitRaises.erase ⟨station, block⟩ })
    ∧ ∀ (w : Fin 4) (e : RuleEntry), s.table.lookup ⟨station, block⟩ = some (w, e) →
      ∃ t, exec (.hitCountRaise station block) s = .next t
        ∧ (∀ (b : Fin 128) (v : Fin 4), t.table[b][v]
            = if b.val = (block + 9 * station.toNat) % 128 ∧ v = w then
                some { e with hits := min 65535 (e.hits + 1) }
              else s.table[b][v])
        ∧ t = { s with hitRaises := s.hitRaises.erase ⟨station, block⟩, table := t.table }

/-- Table 4-2, R60, R61 and R63 to R70: a REQ that repeats a held request or a transaction of its port is
absorbed and its reservation handed back; of any other, the first of checks 2 to 12 that fails refuses it
with its status, and its answer is handed on. Neither changes any other state. R60 and R128: the placing of
the answer handed on first, and the release of a reservation handed back, are happenings of their own at
the output unit; that they are commands of the row SCREENING is the model's choice (log 11). -/
def Obligations.ScreeningTurnsAway : Prop :=
  (∀ (s : State) (p : Port) (t : Telegram) (rest : List Telegram), s.phase = .running →
    s.toScreen.get p = t :: rest →
    let o := s.outputs.get p
    (s.repeats p t → exec (.screening (.judge p)) s = .next { s with
      toScreen := s.toScreen.set p rest
      outputs := s.outputs.set p { o with handedBack := o.handedBack + 1 }
      counters := s.counters.set p
        { s.counters.get p with duplicates := (s.counters.get p).duplicates + 1 } })
    ∧ ∀ status, ¬s.repeats p t → s.refusal p t = some status →
      exec (.screening (.judge p)) s = .next { s with
        toScreen := s.toScreen.set p rest
        outputs := s.outputs.set p
          { o with handed := o.handed ++ [relayAnswer t.source t.dest t.tag t.object status] }
        counters := s.counters.set p
          { s.counters.get p with refused := (s.counters.get p).refused + 1 } })
  ∧ ∀ (s : State) (p : Port), s.phase = .running →
    let o := s.outputs.get p
    (∀ t rest, o.handed = t :: rest → exec (.screening (.place p)) s = .next { s with
      outputs := s.outputs.set p (OutputUnit.choose s.now { o with
        handed := rest, answers := o.answers ++ [t], reserved := o.reserved - 1 }) })
    ∧ (0 < o.handedBack → exec (.screening (.release p)) s = .next { s with
      outputs := s.outputs.set p
        { o with handedBack := o.handedBack - 1, reserved := o.reserved - 1 } })

/-- R69, R71, R73 and Table 4-3: a REQ that passes every check is admitted under its rule: a held request at
the tail, a token less in the meter the rule names, and a hit raise asked for. -/
def Obligations.ScreeningAdmits : Prop :=
  ∀ (s : State) (p : Port) (t : Telegram) (rest : List Telegram), s.phase = .running →
    s.toScreen.get p = t :: rest → ¬s.repeats p t → s.refusal p t = none →
    ∃ (e : RuleEntry) (op : Op) (meters : Vector Meter 32), s.ruleOf t = some e ∧ op.code = t.code
      ∧ (∀ n : Fin 32, meters[n] =
          if e.meter = n.val + 1 then
            { s.meters[n] with
              tokens := (s.meters[n]).tokens - 1
              refill := if (s.meters[n]).refill = none ∧ (s.meters[n]).tokens - 1 < (s.meters[n]).size then
                  some (s.now + 32000 * (s.meters[n]).period)
                else (s.meters[n]).refill }
          else s.meters[n])
      ∧ exec (.screening (.judge p)) s = .next { s with
          toScreen := s.toScreen.set p rest
          meters := meters
          held := s.held ++ [{ port := p, source := t.source, tag := t.tag, station := t.dest,
                               object := t.object, op := op, data := t.data, urgent := t.flags.getLsbD 0,
                               timeoutClass := e.timeoutClass, group := e.group }]
          hitRaises := s.hitRaises ++ [⟨t.dest, t.object.toNat / 16⟩]
          counters := s.counters.set p
            { s.counters.get p with admitted := (s.counters.get p).admitted + 1 } }

/-- R73: the refill timer of meter `n` runs out, on time or taken late (log 3). -/
def Obligations.MeterGainsAToken : Prop :=
  ∀ (s : State) (n : Fin 32) (due : Nat), s.phase = .running → (s.meters[n]).refill = some due →
    exec (.meterRefill (n.val + 1)) s = .next { s with
      now := max s.now due
      meters := s.meters.set n { s.meters[n] with
        tokens := (s.meters[n]).tokens + 1
        refill := if (s.meters[n]).tokens + 1 < (s.meters[n]).size then
            some (max s.now due + 32000 * (s.meters[n]).period)
          else none } }

/-! ## Leases (spec 05) -/

/-- R79, R80 and R81: a LEASE_TAKE of a free group, or of one its port holds, grants the group for the smaller of
the asked duration and LEASE_MAX; a LEASE_RENEW from the holder restarts the expiry with the duration of the
last take, whatever LEASE_MAX is now. -/
def Obligations.LeaseIsGrantedAndRenewed : Prop :=
  ∀ (s : State) (m : Mgt) (g : Byte), s.Executes m → 1 ≤ g.toNat → g.toNat ≤ 16 →
    let granted := fun d : Nat => State.answered { s with
      leases := s.leases.setIfInBounds (g.toNat - 1) (some ⟨m.port, d, s.now + 32000 * d⟩) }
      m 0x00 [g, byteOf (d / 256), byteOf d]
    (∀ hi lo, m.code = 0x14 → m.data = [g, hi, lo] → hi.toNat * 256 + lo.toNat ≠ 0 →
        (∀ l, s.lease g.toNat = some l → l.holder = m.port) →
      exec .leaseTake s = .next (granted (min (hi.toNat * 256 + lo.toNat) s.settings.leaseMax)))
    ∧ ∀ l, m.code = 0x15 → m.data = [g] → s.lease g.toNat = some l → l.holder = m.port →
      exec .leaseRenew s = .next (granted l.granted)

/-- R79 to R82: the lease operations that change no group: a bad argument, a take of the peer's group, and a
renewal or release by a port that does not hold the group. The remaining time is in whole ms rounded up;
that an overdue lease reports 1 follows Table 5-3 (log 18). -/
def Obligations.LeaseRefusalsChangeNothing : Prop :=
  ∀ (s : State) (m : Mgt) (g hi lo : Byte), s.Executes m →
    let left := fun l : Lease => max 1 ((l.expiry - s.now + 31999) / 32000)
    let code := fun l : Lease => if l.holder = .a then (1 : Byte) else 2
    (m.code = 0x14 → m.data = [g, hi, lo] →
      (g.toNat = 0 ∨ 16 < g.toNat ∨ hi = 0 ∧ lo = 0 → exec .leaseTake s = .next (s.answered m 0x99 []))
      ∧ (g.toNat ≤ 16 → ¬(hi = 0 ∧ lo = 0) → ∀ l, s.lease g.toNat = some l → l.holder = m.port.other →
        exec .leaseTake s = .next (s.answered m 0x9E [code l, byteOf (left l / 256), byteOf (left l)])))
    ∧ (m.data = [g] → ∀ c, m.code = 0x15 ∧ c = .leaseRenew ∨ m.code = 0x16 ∧ c = .leaseRelease →
      (g.toNat = 0 ∨ 16 < g.toNat → exec c s = .next (s.answered m 0x99 []))
      ∧ (1 ≤ g.toNat → g.toNat ≤ 16 → s.lease g.toNat = none →
        exec c s = .next (s.answered m 0x9F [0, 0, 0]))
      ∧ (g.toNat ≤ 16 → ∀ l, s.lease g.toNat = some l → l.holder = m.port.other →
        exec c s = .next (s.answered m 0x9F [code l, byteOf (left l / 256), byteOf (left l)])))

/-- R82, R88 and R102: a LEASE_RELEASE from the holder frees the group and purges the port's held WRITEs and
TRIGGERs under it. The MGA and the run of LEASE_LOST answers may be placed in either order (R128); no
notice is set. -/
def Obligations.LeaseReleaseFreesAndPurges : Prop :=
  ∀ (s : State) (m : Mgt) (g : Byte) (l : Lease), s.Executes m → m.code = 0x16 → m.data = [g] →
    1 ≤ g.toNat → g.toNat ≤ 16 → s.lease g.toNat = some l → l.holder = m.port →
    let lost := fun r : HeldReq => r.port = m.port ∧ r.op ≠ .read ∧ r.group = g.toNat
    let run := (s.held.filter lost).map fun r => relayAnswer r.source r.station r.tag r.object 0x8D
    ∃ t, exec .leaseRelease s = .next t
      ∧ State.TakenInSomeOrder { s with
          slots := s.slots.tail, leases := s.leases.setIfInBounds (g.toNat - 1) none
          held := s.held.filter fun r => ¬lost r }
        [State.answer m.port run, State.answer m.port [m.reply 0x00 [g]]] t

/-- R84, R88 and R89: a lease group expires, on time or taken late (log 3). The run of LEASE_LOST answers and
the notice may be placed in either order (R128). -/
def Obligations.LeaseExpiryFreesAndPurges : Prop :=
  ∀ (s : State) (g : Nat) (l : Lease), s.phase = .running → s.lease g = some l →
    let p := l.holder
    let lost := fun r : HeldReq => r.port = p ∧ r.op ≠ .read ∧ r.group = g
    let run := (s.held.filter lost).map fun r => relayAnswer r.source r.station r.tag r.object 0x8D
    ∃ t, exec (.leaseExpiry g) s = .next t
      ∧ State.TakenInSomeOrder { s with
          now := max s.now l.expiry, leases := s.leases.setIfInBounds (g - 1) none
          held := s.held.filter fun r => ¬lost r }
        [State.answer p run, State.request .leaseLost (.group g) p] t

/-! ## Hold queue, dispatch and transactions (spec 06, spec 07) -/

/-- R95, R97 and R98: whom the arbiter picks, and that no dispatch is taken while no request is eligible. -/
def Obligations.ArbiterPicks : Prop :=
  ∀ s : State, s.phase = .running →
    let first := fun (i : Nat) (r : HeldReq) (q : HeldReq → Prop) =>
      s.eligibleAt i r ∧ q r ∧ ∀ j < i, ∀ r', s.eligibleAt j r' → ¬q r'
    ((∀ i r, ¬s.eligibleAt i r) → exec .dispatch s = .next s)
    ∧ (∀ i r, first i r (fun r => r.urgent = true) → s.arbiter = some ⟨r, false⟩)
    ∧ ((∀ i r, s.eligibleAt i r → r.urgent = false) → ∀ p i r, first i r (fun r => r.port = p) →
        ((∀ j r', s.eligibleAt j r' → r'.port = p) ∨ s.credits.get p.other < s.credits.get p
          ∨ s.credits.get p = s.credits.get p.other ∧ s.lastShare = p.other) →
        s.arbiter = some ⟨r, true⟩)

/-- R12, R32, R96, R98, R99, R109 and R110: a dispatch of the request the arbiter picks. -/
def Obligations.DispatchMakesATransaction : Prop :=
  ∀ (s : State) (r : HeldReq) (share : Bool), s.phase = .running → s.arbiter = some ⟨r, share⟩ →
    isFieldStation r.station →
    ∃ k < 16, ∃ tag : Byte, tag = s.tagCounter + BitVec.ofNat 8 k
      ∧ (∀ e ∈ s.entries, e.relayTag ≠ tag)
      ∧ (∀ j < k, ∃ e ∈ s.entries, e.relayTag = s.tagCounter + BitVec.ofNat 8 j)
      ∧ ∃ credits : PerPort Nat,
        (let c := s.credits.set r.port (s.credits.get r.port - 1)
         credits = if share then (if c = ⟨0, 0⟩ then s.settings.share else c) else s.credits)
        ∧ exec .dispatch s = .next { s with
            held := s.held.erase r
            entries := s.entries ++ [⟨tag, r.station, r.port, r.source, r.tag, r.object, r.timeoutClass,
              .sending⟩]
            tagCounter := tag + 1
            stations := s.stations.setIfInBounds (r.station.toNat - 1)
              { s.station r.station.toNat with state := .busy }
            fieldTx := some ⟨tag, r.station,
              ⟨.req, 0, r.station, 63, tag, r.object, r.op.code, r.data⟩, s.now, none⟩
            credits := credits
            lastShare := if share then r.port else s.lastShare }

/-- R33, R34 and R111: the end of a field transmission, and its taking by the transaction unit. The deadline
of the entry counts from that end, with the TIMEOUT_CLASS live at it, whenever the taking comes; with no
such entry in SENDING nothing changes there. That the two happenings are two commands of this one row, the
taking first while an announcement waits, is the model's choice (log 11), and so is that the command
changes nothing while the transmitter is IDLE and no end is announced (log 4). -/
def Obligations.FieldTransmissionEnds : Prop :=
  ∀ s : State, s.phase = .running →
    (∀ x : FieldSend, s.fieldEnd = none → s.fieldTx = some x →
      let done := x.startedAt + (11 + x.telegram.data.length) * 10 * (32000000 / s.runningRate.get .field)
      exec .fieldTransmissionEnd s = .next { s with
        now := max s.now done
        fieldTx := none
        fieldEnd := some ⟨x.tag, x.station, done, match x.classes with
          | some classes => classes
          | none => s.settings.timeoutClass⟩ })
    ∧ (∀ a : FieldEnd, s.fieldEnd = some a →
      exec .fieldTransmissionEnd s = .next { s with
        fieldEnd := none
        entries := s.entries.map fun e =>
          if e.relayTag = a.tag ∧ e.station = a.station ∧ e.state = .sending then
            { e with state := .waiting (a.ended + 32000 * (a.classes.toList[e.timeoutClass]?).getD 0) }
          else e })
    ∧ (s.fieldEnd = none → s.fieldTx = none → exec .fieldTransmissionEnd s = .next s)

/-- R112, R113, R114, R119 and R27: a field RSP that completes a telegram, first a sign of life that returns a
QUARANTINED station. With destination 63 it then matches one WAITING entry and is forwarded, or it is
unmatched; with another it is of a wrong kind. That a source of 64 to 255 is received and counted like 0
and 63 is the model's reading (log 12). -/
def Obligations.FieldRspIsMatchedOrCounted : Prop :=
  ∀ (s : State) (last : Byte) (t : Telegram), s.phase = .running →
    (s.rx.get .field).assembly.receive ⟨last, false⟩ = .telegram t → t.kind = .rsp →
    let live := s.heard t
    let names := fun e : Entry => e.station = t.source ∧ e.relayTag = t.tag ∧ e.state ≠ .sending
    (t.dest = 63 → ∀ e ∈ s.entries, names e → (∀ e' ∈ s.entries, names e' → e' = e) →
      exec (.fieldTelegram last) s = .next (State.answer e.port
        [⟨.rsp, 0, e.source, t.source, e.tag, t.object, t.code, t.data⟩]
        ({ live with entries := s.entries.erase e }.withStation t.source.toNat
          { live.station t.source.toNat with state := .idle, streak := 0 })))
    ∧ (t.dest = 63 → (∀ e ∈ s.entries, ¬names e) → 1 ≤ t.source.toNat → t.source.toNat ≤ 62 →
      exec (.fieldTelegram last) s = .next ({ live with
        fieldCounters := { live.fieldCounters with unmatched := s.fieldCounters.unmatched + 1 }
        }.withStation t.source.toNat { live.station t.source.toNat with
          unmatched := min 65535 ((s.station t.source.toNat).unmatched + 1) }))
    ∧ (t.dest = 63 → (∀ e ∈ s.entries, ¬names e) → t.source.toNat = 0 ∨ 62 < t.source.toNat →
      exec (.fieldTelegram last) s = .next { live with
        fieldCounters := { live.fieldCounters with unmatched := s.fieldCounters.unmatched + 1 } })
    ∧ (t.dest ≠ 63 →
      exec (.fieldTelegram last) s = .next { live with
        fieldCounters := { live.fieldCounters with wrongKind := s.fieldCounters.wrongKind + 1 } })

/-- R27, R119, R122, R132 and R133: a field EVT, which first returns a QUARANTINED station and is then routed,
and a copy of it at the event section of one port. -/
def Obligations.FieldEvtIsRouted : Prop :=
  (∀ (s : State) (last : Byte) (t : Telegram), s.phase = .running →
    (s.rx.get .field).assembly.receive ⟨last, false⟩ = .telegram t → t.kind = .evt →
    let live := s.heard t
    let found := s.table.lookup ⟨t.source, t.object.toNat / 16⟩
    (s.mode = .isolated →
      exec (.fieldTelegram last) s = .next { live with
        fieldCounters := { live.fieldCounters with eventsDropped := s.fieldCounters.eventsDropped + 1 } })
    ∧ (s.mode = .screening → (∀ w e, found = some (w, e) → e.route = .none) →
      exec (.fieldTelegram last) s = .next { live with
        fieldCounters := { live.fieldCounters with eventsNoRule := s.fieldCounters.eventsNoRule + 1 } })
    ∧ ∀ w e, s.mode = .screening → found = some (w, e) →
      (e.route = .a → exec (.fieldTelegram last) s = .next (State.offerEvt t .a live))
      ∧ (e.route = .b → exec (.fieldTelegram last) s = .next (State.offerEvt t .b live))
      ∧ (e.route = .both →
          exec (.fieldTelegram last) s = .next (State.offerEvt t .b (State.offerEvt t .a live))))
  ∧ ∀ (s : State) (p : Port) (t : Telegram),
    ((s.output p).events.length < 16 →
      State.offerEvt t p s = s.withOutput p (OutputUnit.placeEvent s.now
        { t with flags := if (s.output p).gap then 2 else 0 } { s.output p with gap := false }))
    ∧ (16 ≤ (s.output p).events.length →
      State.offerEvt t p s = State.request .eventGap .nothing p { s with
        outputs := s.outputs.set p { s.outputs.get p with gap := true }
        counters := s.counters.set p
          { s.counters.get p with eventsDropped := (s.counters.get p).eventsDropped + 1 } })

/-- R119, R27 and Table 2-4: a field telegram of any kind from a QUARANTINED station 1 to 62 returns it, with
STATION_RETURNED requested on both ports; a telegram of a wrong kind, or an RSP to another destination
than 63, is counted and changes nothing else, and of any kind no other station changes. A REQ, MGT, MGA or
NTC on the Field port is dropped as of a wrong kind whatever its source and that station's state; that
sources 64 to 255 are received like 0 and 63 is the model's reading (log 12). R120: the running out of the
hold timer of a station returns it too, on time or taken late (log 3). -/
def Obligations.QuarantinedStationReturns : Prop :=
  (∀ (s : State) (last : Byte) (t : Telegram), s.phase = .running →
    (s.rx.get .field).assembly.receive ⟨last, false⟩ = .telegram t →
    1 ≤ t.source.toNat → t.source.toNat ≤ 62 → (s.station t.source.toNat).state = .quarantined →
    let n := t.source.toNat
    (t.kind ≠ .rsp ∧ t.kind ≠ .evt ∨ t.kind = .rsp ∧ t.dest ≠ 63 →
      exec (.fieldTelegram last) s = .next (State.request .stationReturned (.station t.source) .b
        (State.request .stationReturned (.station t.source) .a
          ({ s with
            rx := s.rx.set .field ⟨.hunt false, s.now⟩
            fieldCounters := { s.fieldCounters with
              telegramsIn := s.fieldCounters.telegramsIn + 1
              wrongKind := s.fieldCounters.wrongKind + 1 } }.withStation n
            { s.station n with state := .idle, streak := 0, hold := none }))))
    ∧ ∃ u, exec (.fieldTelegram last) s = .next u
      ∧ (u.station n).state = .idle ∧ (u.station n).streak = 0 ∧ (u.station n).hold = none
      ∧ (u.station n).timeouts = (s.station n).timeouts ∧ (∀ k, k ≠ n → u.station k = s.station k)
      ∧ ∀ p, (u.notice p).flags.getLsbD 1 = true ∧ (u.notice p).station = t.source)
  ∧ (∀ (s : State) (last : Byte) (t : Telegram), s.phase = .running →
    (s.rx.get .field).assembly.receive ⟨last, false⟩ = .telegram t → t.kind ≠ .rsp → t.kind ≠ .evt →
    let live := s.heard t
    exec (.fieldTelegram last) s = .next { live with
      fieldCounters := { live.fieldCounters with wrongKind := s.fieldCounters.wrongKind + 1 } })
  ∧ ∀ (s : State) (n due : Nat), s.phase = .running → 1 ≤ n → n ≤ 62 → (s.station n).hold = some due →
    exec (.holdTimerExpiry n) s = .next (State.request .stationReturned (.station (byteOf n)) .b
      (State.request .stationReturned (.station (byteOf n)) .a
        ({ s with now := max s.now due }.withStation n
          { s.station n with state := .idle, streak := 0, hold := none })))

/-- R116, R117, R104 and R102: the deadline of the WAITING entry `e` runs out, on time or taken late (log 3).
Below QUARANTINE_LIMIT its station becomes IDLE; at the limit or above it is QUARANTINED, every request
held for it is answered NO_STATION in one run a port, and STATION_QUARANTINED is requested on both ports.
What one port receives of these may be placed in any order (R128). -/
def Obligations.DeadlineTimesOut : Prop :=
  ∀ (s : State) (e : Entry) (due : Nat), s.phase = .running → e ∈ s.entries → e.state = .waiting due →
    (∀ e' ∈ s.entries, e'.relayTag = e.relayTag → e' = e) →
    1 ≤ e.station.toNat → e.station.toNat ≤ 62 →
    let n := e.station.toNat
    let r := s.station n
    let streak := min 15 (r.streak + 1)
    let timeout := relayAnswer e.source e.station e.tag e.object 0x8C
    let now := max s.now due
    (streak < s.settings.quarantineLimit →
      exec (.deadline e.relayTag) s = .next (State.answer e.port [timeout] ({ s with
        now := now, entries := s.entries.erase e }.withStation n { r with
          state := .idle, streak := streak, timeouts := min 65535 (r.timeouts + 1) })))
    ∧ (s.settings.quarantineLimit ≤ streak →
      let run := fun p => (s.held.filter fun h => h.port = p ∧ h.station = e.station).map fun h =>
        relayAnswer h.source h.station h.tag h.object 0x88
      let notice := State.request .stationQuarantined (.station e.station)
      ∃ t, exec (.deadline e.relayTag) s = .next t
        ∧ State.TakenInSomeOrder ({ s with
            now := now, entries := s.entries.erase e
            held := s.held.filter fun h => h.station ≠ e.station }.withStation n { r with
              state := .quarantined, streak := streak, timeouts := min 65535 (r.timeouts + 1)
              hold := some (now + 32000000 * s.settings.quarantineHold) })
          [State.answer e.port [timeout], State.answer .a (run .a), State.answer .b (run .b),
            notice .a, notice .b] t)

/-- R102 and R105: an entry into ISOLATED that was announced is taken: every held request of each port is
answered ISOLATED in one run, in order of admission. -/
def Obligations.IsolatedPurgeAnswersEveryHeldRequest : Prop :=
  ∀ (s : State) (n : Nat), s.phase = .running → s.isolatedPurges = n + 1 →
    let run := fun p => (s.held.filter fun r => r.port = p).map fun r =>
      relayAnswer r.source r.station r.tag r.object 0x8B
    exec .isolatedPurge s = .next (State.answer .b (run .b) (State.answer .a (run .a)
      { s with isolatedPurges := n, held := [] }))

/-! ## Output units and notices (spec 08) -/

/-- R130: the choice of an IDLE port transmitter, and R128: an answer or a run of answers joins the tail of the
answer section, after every answer handed on earlier and not placed yet, and their reservations end; a run
of none places nothing (R102). A BUSY transmitter goes on with what it sends (R131). -/
def Obligations.TransmitterChooses : Prop :=
  ∀ (o : OutputUnit) (now : Nat) (a e : Telegram) (as es : List Telegram),
    (o.sending = none → o.answers = a :: as → o.events = e :: es → o.answerRun < 4 →
      o.choose now = { o with sending := some ⟨.answer, a, now⟩, answerRun := o.answerRun + 1 })
    ∧ (o.sending = none → o.answers = a :: as → o.events = e :: es → 4 ≤ o.answerRun →
      o.choose now = { o with sending := some ⟨.event, e, now⟩, answerRun := 0 })
    ∧ (o.sending = none → o.answers = a :: as → o.events = [] →
      o.choose now = { o with sending := some ⟨.answer, a, now⟩, answerRun := 0 })
    ∧ (o.sending = none → o.answers = [] → o.events = e :: es →
      o.choose now = { o with sending := some ⟨.event, e, now⟩, answerRun := 0 })
    ∧ (o.sending = none → o.answers = [] → o.events = [] → o.choose now = o)
    ∧ (o.sending.isSome → o.choose now = o)
    ∧ (∀ t rest, o.place now (t :: rest) = OutputUnit.choose now { o with
        handed := [], answers := o.answers ++ o.handed ++ t :: rest
        reserved := o.reserved - (o.handed.length + (rest.length + 1)) })
    ∧ o.place now [] = o
    ∧ ∀ t, o.placeEvent now t = OutputUnit.choose now { o with events := o.events ++ [t] }

/-- R131: the end of a sending on port `p`, (11 + L) × 10 bit times after it began, on time or taken late
(log 3). The telegram leaves its section and the next choice is made with no pause. R18 and R19: the
transmit line is high at rest; while a telegram is sent, character `k` of it is a low start bit, its data
bits from the least significant on, and a high stop bit, each for one bit time of the link's running rate. -/
def Obligations.PortSendingEnds : Prop :=
  (∀ (s : State) (p : Port) (x : Sending), s.phase = .running → (s.output p).sending = some x →
    let done := x.startedAt
      + (11 + x.telegram.data.length) * 10 * (32000000 / s.runningRate.get (.control p))
    let o := s.output p
    exec (.portSendEnd p) s = .next { s with
      now := max s.now done
      outputs := s.outputs.set p (OutputUnit.choose (max s.now done) (match x.part with
        | .answer => { o with answers := o.answers.tail, sending := none }
        | .event => { o with events := o.events.tail, sending := none })) })
  ∧ ∀ (s : State) (l : Line), s.phase = .running →
    let sends := fun (t : Telegram) (start : Nat) => match l with
      | .control p => ∃ part, (s.output p).sending = some ⟨part, t, start⟩
      | .field => ∃ x, s.fieldTx = some x ∧ x.telegram = t ∧ x.startedAt = start
    let bit := 32000000 / s.runningRate.get l
    ((∀ t start, ¬sends t start) → s.txLevel l = true)
    ∧ ∀ (t : Telegram) (start k i r : Nat) (c : Byte), sends t start → t.bytes[k]? = some c → i < 10 →
      r < bit → s.now = start + (10 * k + i) * bit + r →
      s.txLevel l = if i = 0 then false else if i = 9 then true else c.getLsbD (i - 1)

/-- R135 and R137: a request to set a flag on a port, whose bits are those of Table 1-11. Its detail is written
in every case; an NTC is offered only for a flag that was clear and is enabled; it carries the enabled
pending flags, the details and the sequence, and it is skipped while 16 telegrams are placed. -/
def Obligations.NoticeRequestIsTaken : Prop :=
  ∀ (s : State) (f : NoticeFlag) (d : Detail) (p : Port),
    let bit := match f with
      | .stationQuarantined => 0 | .stationReturned => 1 | .leaseLost => 2 | .peerDown => 3 | .peerUp => 4
      | .storeDone => 5 | .storeFailed => 6 | .sessionEnded => 7 | .eventGap => 8 | .started => 9
    let n := s.notice p
    let noted := match d with
      | .nothing => n
      | .station st => { n with station := st }
      | .group g => { n with group := g }
      | .start cause slot fallback => { n with cause := cause, startSlot := slot, fallback := fallback }
    let raised := { noted with flags := n.flags ||| BitVec.twoPow 10 bit }
    let mask := s.settings.noticeMask.get p
    let restarted := { raised with timer := some (s.now + 32000 * s.settings.noticeRepeat) }
    let ntc : Telegram := ⟨.ntc, 0, 0, 63, n.seq, 0, 0, raised.data (raised.flags &&& mask)⟩
    (n.flags.getLsbD bit = true → s.request f d p = s.withNotice p noted)
    ∧ (n.flags.getLsbD bit = false → mask.getLsbD bit = false → s.request f d p = s.withNotice p raised)
    ∧ (n.flags.getLsbD bit = false → mask.getLsbD bit = true → (s.output p).events.length < 16 →
      s.request f d p = (s.withOutput p ((s.output p).placeEvent s.now ntc)).withNotice p
        { restarted with seq := n.seq + 1 })
    ∧ (n.flags.getLsbD bit = false → mask.getLsbD bit = true → 16 ≤ (s.output p).events.length →
      s.request f d p = s.withNotice p restarted)

/-- R136 and R137: the repeat timer of a port runs out, on time or taken late (log 3). -/
def Obligations.RepeatTimerAnnouncesOrStops : Prop :=
  ∀ (s : State) (p : Port) (due : Nat), s.phase = .running → (s.notice p).timer = some due →
    let n := s.notice p
    let now := max s.now due
    let shown := n.flags &&& s.settings.noticeMask.get p
    let restarted := { n with timer := some (now + 32000 * s.settings.noticeRepeat) }
    let at' : State := { s with now := now }
    (shown = 0 → exec (.noticeRepeatExpiry p) s = .next (at'.withNotice p { n with timer := none }))
    ∧ (shown ≠ 0 → 16 ≤ (s.output p).events.length →
      exec (.noticeRepeatExpiry p) s = .next (at'.withNotice p restarted))
    ∧ (shown ≠ 0 → (s.output p).events.length < 16 →
      exec (.noticeRepeatExpiry p) s = .next ((at'.withOutput p ((s.output p).placeEvent now
        ⟨.ntc, 0, 0, 63, n.seq, 0, 0, n.data shown⟩)).withNotice p { restarted with seq := n.seq + 1 }))

/-- R138: NOTICE_ACK clears the flags its argument names in bits 0 to 9, on its own port, and answers with the
flags still pending. -/
def Obligations.NoticeAckClearsItsPort : Prop :=
  ∀ (s : State) (m : Mgt) (hi lo : Byte), s.Executes m → m.code = 0x18 → m.data = [hi, lo] →
    let n := s.notice m.port
    let flags := n.flags &&& ~~~(BitVec.ofNat 10 (hi.toNat * 256 + lo.toNat))
    exec .noticeAck s = .next (State.answered (s.withNotice m.port { n with
        flags := flags
        timer := if flags &&& s.settings.noticeMask.get m.port = 0 then none else n.timer })
      m 0x00 [byteOf (flags.toNat / 256), byteOf flags.toNat])

/-! ## Management (spec 09) -/

/-- R9 and R145: the two judgements made before any other, and ECHO, which takes any length. -/
def Obligations.MgtIsJudgedByCodeAndLength : Prop :=
  ∀ (s : State) (m : Mgt), s.Executes m →
    (m.code.toNat = 0 ∨ 0x1B < m.code.toNat → exec .unknownOp s = .next (s.answered m 0x9D []))
    ∧ (∀ row ∈ mgtLengths, m.code = row.1 → m.data.length ≠ row.2.1 →
      exec row.2.2 s = .next (s.answered m 0x99 []))
    ∧ (m.code = 0x01 → exec .echo s = .next (s.answered m 0x00 m.data))

/-- R144 and R147: an operation that needs the session, from a port that does not own it, changes nothing:
NO_SESSION or SESSION_HELD, before any check of its own. -/
def Obligations.SessionIsJudgedFirst : Prop :=
  ∀ (s : State) (m : Mgt), s.Executes m → ∀ row ∈ mgtLengths, needsSession row.1 = true →
    m.code = row.1 → m.data.length = row.2.1 →
    (s.session = none → exec row.2.2 s = .next (s.answered m 0x90 []))
    ∧ ∀ x, s.session = some x → x.owner = m.port.other →
      exec row.2.2 s = .next (s.answered m 0x91 [])

/-- R146: SESSION_OPEN, its five cases. -/
def Obligations.SessionOpens : Prop :=
  ∀ (s : State) (m : Mgt) (code : Byte) (role : Role), s.Executes m → m.code = 0x02 → m.data = [code] →
    (code ≠ 1 → code ≠ 2 → exec .sessionOpen s = .next (s.answered m 0x99 []))
    ∧ (code = (if role = .operator then 1 else 2) →
      (∀ x, s.session = some x → x.owner = m.port.other →
        exec .sessionOpen s = .next (s.answered m 0x91 []))
      ∧ ((∀ x, s.session = some x → x.owner = m.port) → role = .integrator → s.lock = true →
        exec .sessionOpen s = .next (s.answered m 0x93 []))
      ∧ (s.session = none → (role = .integrator → s.lock = false) →
        exec .sessionOpen s = .next (State.answered { s with
          session := some ⟨m.port, role, [], s.now + 32000000 * s.settings.sessionIdle⟩ } m 0x00 []))
      ∧ ∀ x, s.Owns m x → (role = .integrator → s.lock = false) →
        exec .sessionOpen s = .next (State.answered { s with
          session := some { x with role := role, list := [] } } m 0x00 []))

/-- R147, R148 and R149: the three ends of a session, the running out of its idle timer on time or taken late
(log 3), and a DOWN announcement of a port that owns no session. The change list goes with the session. -/
def Obligations.SessionEnds : Prop :=
  (∀ (s : State) (x : Session), s.session = some x →
    (∀ m, s.Executes m → m.code = 0x03 → m.data = [] → x.owner = m.port →
      exec .sessionClose s = .next (State.answered { s with session := none } m 0x00 []))
    ∧ (s.phase = .running →
      exec .sessionIdleExpiry s = .next (State.request .sessionEnded .nothing x.owner
        { s with now := max s.now x.idle, session := none }))
    ∧ ∀ n, s.phase = .running → s.sessionDown.get x.owner = n + 1 →
      exec (.sessionEndOnLinkDown x.owner) s = .next (State.request .sessionEnded .nothing x.owner
        { s with session := none, sessionDown := s.sessionDown.set x.owner n }))
  ∧ ∀ (s : State) (p : Port) (n : Nat), s.phase = .running → s.sessionDown.get p = n + 1 →
    (∀ x, s.session = some x → x.owner = p.other) →
    exec (.sessionEndOnLinkDown p) s = .next { s with sessionDown := s.sessionDown.set p n }

/-- R10, R156, R158, R159, R173, R83 and R78: the reads answer with the bytes of Table 1-7 and change nothing;
a station, set or part out of its range is answered BAD_ARGUMENT. A remaining time is in whole ms rounded
up; that an overdue lease reports 1 and a hold timer that is due 0 is the model's reading (log 18). -/
def Obligations.ReadsReport : Prop :=
  ∀ (s : State) (m : Mgt), s.Executes m →
    (∀ hi lo i, m.code = 0x04 → m.data = [hi, lo] → (i : ConfigItem).number = hi.toNat * 256 + lo.toNat →
      exec .readConfig s = .next (s.answered m 0x00 ([hi, lo] ++ be32 (s.settings.get i))))
    ∧ (∀ hi lo, m.code = 0x04 → m.data = [hi, lo] →
        (∀ i : ConfigItem, i.number ≠ hi.toNat * 256 + lo.toNat) →
      exec .readConfig s = .next (s.answered m 0x98 []))
    ∧ (∀ n, m.code = 0x11 → m.data = [n] → 1 ≤ n.toNat → n.toNat ≤ 62 →
      let r := s.station n.toNat
      exec .readStation s = .next (s.answered m 0x00
        ([match r.state with | .idle => 0 | .busy => 1 | .quarantined => 2, byteOf r.streak]
          ++ be32 (match r.hold with | none => 0 | some due => (due - s.now + 31999) / 32000)
          ++ be16 r.timeouts ++ be16 r.unmatched)))
    ∧ (∀ n, m.code = 0x11 → m.data = [n] → n.toNat = 0 ∨ 62 < n.toNat →
      exec .readStation s = .next (s.answered m 0x99 []))
    ∧ (∀ set part : Byte, m.code = 0x12 → m.data = [set, part] →
        ¬(set.toNat ≤ 2 ∧ part = 0 ∨ (set = 3 ∨ set = 4) ∧ part.toNat ≤ 2) →
      exec .readCounters s = .next (s.answered m 0x99 []))
    ∧ (∀ p, m.code = 0x12 → m.data = [match p with | .a => 0 | .b => 1, 0] →
      let c := s.counters.get p
      exec .readCounters s = .next (s.answered m 0x00
        (be32 c.telegramsIn.toNat ++ be32 c.framingErrors.toNat ++ be32 c.wrongKind.toNat
          ++ be32 c.overruns.toNat ++ be32 c.duplicates.toNat ++ be32 c.admitted.toNat
          ++ be32 c.refused.toNat ++ be32 c.eventsDropped.toNat)))
    ∧ (m.code = 0x12 → m.data = [2, 0] →
      let c := s.fieldCounters
      exec .readCounters s = .next (s.answered m 0x00
        (be32 c.telegramsIn.toNat ++ be32 c.framingErrors.toNat ++ be32 c.wrongKind.toNat
          ++ be32 c.unmatched.toNat ++ be32 c.eventsNoRule.toNat ++ be32 c.eventsDropped.toNat)))
    ∧ (∀ set part : Byte, set = 3 ∨ set = 4 → part.toNat ≤ 2 → m.code = 0x12 → m.data = [set, part] →
      let first := (if set = 3 then 1 else 32) + 12 * part.toNat
      let n := if part = 2 then 7 else 12
      exec .readCounters s = .next (s.answered m 0x00 ([byteOf first, byteOf n]
        ++ (List.range' first n).flatMap fun k =>
          be16 (s.station k).timeouts ++ be16 (s.station k).unmatched)))
    ∧ (m.code = 0x1B → m.data = [] →
      let slot := fun x : ImageSlot => match x with
        | .erased => (0 : Byte) :: be32 0
        | .writing => 1 :: be32 0
        | .valid g _ => 2 :: be32 g
      exec .readStore s = .next (s.answered m 0x00 (slot s.store.slot0 ++ slot s.store.slot1
        ++ [match s.store.op.map (·.kind) with
            | none => 0 | some .commit => 1 | some .setLock => 2 | some .eraseProtected => 3,
          byteOf s.store.failures, if s.store.faulted then 1 else 0])))
    ∧ (m.code = 0x17 → m.data = [] →
      exec .leaseStatus s = .next (s.answered m 0x00 ((List.range' 1 16).flatMap fun g =>
        match s.lease g with
        | none => [0, 0, 0]
        | some l => (if l.holder = .a then 1 else 2) :: be16 (max 1 ((l.expiry - s.now + 31999) / 32000)))))

/-- R49, R50 and R51: READ_ENTRY and READ_BUCKET. While the lock is set a protected entry shows its key, its
mark and its hit count, and nothing else. -/
def Obligations.TableReadsAreMasked : Prop :=
  ∀ (s : State) (m : Mgt), s.Executes m →
    (∀ st bh bl, m.code = 0x0F → m.data = [st, bh, bl] →
      let block := bh.toNat * 256 + bl.toNat
      let found := s.table.lookup ⟨st, block⟩
      (st.toNat = 0 ∨ 62 < st.toNat ∨ 4095 < block → exec .readEntry s = .next (s.answered m 0x99 []))
      ∧ (1 ≤ st.toNat → st.toNat ≤ 62 → block ≤ 4095 → found = none →
        exec .readEntry s = .next (s.answered m 0x98 []))
      ∧ ∀ w e, 1 ≤ st.toNat → st.toNat ≤ 62 → block ≤ 4095 → found = some (w, e) →
        exec .readEntry s = .next (s.answered m 0x00
          ([byteOf ((block + 9 * st.toNat) % 128), byteOf w.val]
            ++ if e.prot = true ∧ s.lock = true then
                [st, bh, bl, 1] ++ List.replicate 14 0 ++ be16 e.hits ++ [0, 0]
              else e.bytes)))
    ∧ ∀ b, m.code = 0x10 → m.data = [b] →
      let summary := fun v : Option RuleEntry => match v with
        | none => List.replicate 13 0
        | some e =>
          if e.prot = true ∧ s.lock = true then
            [1, e.station] ++ be16 e.block ++ [1, 0, 0, 0, 0, 0, 0] ++ be16 e.hits
          else 1 :: (e.bytes.take 10 ++ be16 e.hits)
      (127 < b.toNat → exec .readBucket s = .next (s.answered m 0x99 []))
      ∧ ∀ h : b.toNat < 128, exec .readBucket s = .next (s.answered m 0x00
          (summary s.table[b.toNat][0] ++ summary s.table[b.toNat][1] ++ summary s.table[b.toNat][2]
            ++ summary s.table[b.toNat][3]))

/-- R151 and R152: the four stage operations of the owner, in the order of Table 9-2. The item joins the tail of
the list and nothing else changes. -/
def Obligations.StagingIsJudged : Prop :=
  ∀ (s : State) (m : Mgt) (x : Session) (c : Instr) (item : Option ListItem), s.Executes m → s.Owns m x →
    (m.code = 0x05 ∧ m.data.length = 6 ∧ c = .stageConfig ∧ item = parseConfig m.data
      ∨ m.code = 0x06 ∧ m.data.length = 22 ∧ c = .stageAdd ∧ item = (parseEntry m.data).map .add
      ∨ m.code = 0x07 ∧ m.data.length = 22 ∧ c = .stageModify ∧ item = (parseEntry m.data).map .modify
      ∨ m.code = 0x08 ∧ m.data.length = 3 ∧ c = .stageDelete ∧ item = (parseKey m.data).map .delete) →
    let guarded := fun k : Key => ∃ w e, s.table.lookup k = some (w, e) ∧ e.prot = true
    let touches := fun i : ListItem => match i with
      | .add e => e.prot = true ∨ guarded e.key
      | .modify e => guarded e.key
      | .delete k => guarded k
      | .config _ _ => False
    (item = none → exec c s = .next (s.answered m 0x99 []))
    ∧ (item ≠ none → 32 ≤ x.list.length → exec c s = .next (s.answered m 0x96 []))
    ∧ (∀ v, item = some (.config .protectedWays v) → x.list.length < 32 → x.role = .operator →
      exec c s = .next (s.answered m 0x92 []))
    ∧ (∀ i, item = some i → x.list.length < 32 → x.role = .operator → touches i →
      exec c s = .next (s.answered m 0x94 []))
    ∧ ∀ i, item = some i → x.list.length < 32 →
      (x.role = .operator → ¬touches i ∧ ∀ v, i ≠ .config .protectedWays v) →
      exec c s = .next (State.answered { s with session := some { x with list := x.list ++ [i] } } m 0x00
        [byteOf (x.list.length + 1)])

/-- R155: DISCARD and LIST_READ of the owner. -/
def Obligations.ChangeListIsReadAndDiscarded : Prop :=
  ∀ (s : State) (m : Mgt) (x : Session), s.Executes m → s.Owns m x →
    (m.code = 0x0B → m.data = [] →
      exec .discard s = .next (State.answered { s with session := some { x with list := [] } } m 0x00
        [byteOf x.list.length]))
    ∧ ∀ index, m.code = 0x09 → m.data = [index] →
      (31 < index.toNat → exec .listRead s = .next (s.answered m 0x99 []))
      ∧ (index.toNat ≤ 31 → x.list.length ≤ index.toNat → exec .listRead s = .next (s.answered m 0x98 []))
      ∧ ∀ item, index.toNat ≤ 31 → x.list[index.toNat]? = some item →
        exec .listRead s = .next (s.answered m 0x00 (match item with
          | .add e => 1 :: e.bytes
          | .modify e => 2 :: e.bytes
          | .delete k => [3, k.station] ++ be16 k.block
          | .config i v => 4 :: (be16 i.number ++ be32 v)))

/-- R160, R57 and R58: CLEAR_COUNTERS and SET_MODE of the owner, in either role. The end of a SET_MODE changes
the mode, announces an entry into ISOLATED to the dispatch unit, frees its slot and hands its MGA on, behind
what was handed on before; its placing is a later happening of the output unit (R57, R128), which the model
has as a command of the row SCREENING (log 11, ScreeningTurnsAway). -/
def Obligations.OwnerClearsCountersAndSetsTheMode : Prop :=
  ∀ (s : State) (m : Mgt) (x : Session), s.Executes m → s.Owns m x →
    (m.code = 0x13 → m.data = [] →
      ∃ stations, (∀ n, (State.station { s with stations := stations } n)
          = { s.station n with timeouts := 0, unmatched := 0 })
        ∧ exec .clearCounters s = .next (State.answered { s with
            counters := ⟨⟨0, 0, 0, 0, 0, 0, 0, 0⟩, ⟨0, 0, 0, 0, 0, 0, 0, 0⟩⟩
            fieldCounters := ⟨0, 0, 0, 0, 0, 0⟩, stations := stations } m 0x00 []))
    ∧ ∀ code : Byte, m.code = 0x19 → m.data = [code] →
      let before : Byte := if s.mode = .screening then 1 else 0
      let o := s.output m.port
      let ends : State := { s with
        slots := s.slots.tail
        outputs := s.outputs.set m.port { o with handed := o.handed ++ [m.reply 0x00 [before]] } }
      (1 < code.toNat → exec .setMode s = .next (s.answered m 0x99 []))
      ∧ (code = 1 → exec .setMode s = .next { ends with mode := .screening })
      ∧ (code = 0 → exec .setMode s = .next { ends with
          mode := .isolated
          isolatedPurges := s.isolatedPurges + if s.mode = .screening then 1 else 0 })

/-- R41 to R44, R46 and R153: what an item does to the working copy, in the order of the tests of Table 3-4. A
CONFIG item of another configuration item than PROTECTED_WAYS passes and sets that item alone. -/
def Obligations.TableItemsAreTried : Prop :=
  ∀ (w : Working) (role : Role) (lock : Bool),
    let may : Prop := role = .integrator ∧ lock = false
    let P := w.settings.protectedWays
    (∀ e : RuleEntry,
      let open' := fun v : Fin 4 => (if e.prot then v.val < P else P ≤ v.val) ∧ w.table[e.key.bucket][v] = none
      (e.prot = true → ¬may → w.tryItem role lock (.add e) = .error .prot)
      ∧ ((e.prot = true → may) → w.table.lookup e.key ≠ none →
        w.tryItem role lock (.add e) = .error .keyExists)
      ∧ ((e.prot = true → may) → w.table.lookup e.key = none → (∀ v, ¬open' v) →
        w.tryItem role lock (.add e) = .error .bucketFull)
      ∧ ∀ v, (e.prot = true → may) → w.table.lookup e.key = none → open' v → (∀ u < v, ¬open' u) →
        w.tryItem role lock (.add e)
          = .ok { w with table := w.table.setWay e.key.bucket v (some { e with hits := 0 }) })
    ∧ (∀ e : RuleEntry,
      (w.table.lookup e.key = none → w.tryItem role lock (.modify e) = .error .notFound)
      ∧ ∀ v old, w.table.lookup e.key = some (v, old) →
        (old.prot = true → ¬may → w.tryItem role lock (.modify e) = .error .prot)
        ∧ ((old.prot = true → may) → e.prot ≠ old.prot → w.tryItem role lock (.modify e) = .error .badField)
        ∧ ((old.prot = true → may) → e.prot = old.prot → w.tryItem role lock (.modify e)
          = .ok { w with table := w.table.setWay e.key.bucket v (some { e with hits := old.hits }) }))
    ∧ (∀ k : Key,
      (w.table.lookup k = none → w.tryItem role lock (.delete k) = .error .notFound)
      ∧ ∀ v old, w.table.lookup k = some (v, old) →
        (old.prot = true → ¬may → w.tryItem role lock (.delete k) = .error .prot)
        ∧ ((old.prot = true → may) →
          w.tryItem role lock (.delete k) = .ok { w with table := w.table.setWay k.bucket v none }))
    ∧ (∀ (i : ConfigItem) (v : Nat), i ≠ .protectedWays → i.inRange v = true →
      ∃ settings, w.tryItem role lock (.config i v) = .ok { w with settings := settings }
        ∧ settings.get i = v ∧ ∀ j, j ≠ i → settings.get j = w.settings.get j)
    ∧ ∀ n : Nat,
      let blocks := fun (b : Fin 128) (v : Fin 4) (e : RuleEntry) =>
        w.table[b][v] = some e ∧ (e.prot = true ∨ v.val < n)
      (lock = true → w.tryItem role lock (.config .protectedWays n) = .error .prot)
      ∧ (lock = false → (∃ b v e, blocks b v e) →
        w.tryItem role lock (.config .protectedWays n) = .error .waysConflict)
      ∧ (lock = false → (∀ b v e, ¬blocks b v e) →
        w.tryItem role lock (.config .protectedWays n)
          = .ok { w with settings := { w.settings with protectedWays := n } })

/-- R153: an APPLY that changes nothing: while a store operation is in flight, with an empty list, and when an
item fails, the items before it having passed in staging order. The list is kept whole. -/
def Obligations.ApplyFailsWhole : Prop :=
  ∀ (s : State) (m : Mgt) (x : Session), s.Executes m → s.Owns m x → m.code = 0x0A → m.data = [] →
    (s.store.op ≠ none → exec .apply s = .next (s.answered m 0x95 []))
    ∧ (s.store.op = none → x.list = [] → exec .apply s = .next (s.answered m 0x00 [0]))
    ∧ ∀ before item after (w : Working) (reason : ApplyReason), s.store.op = none →
      x.list = before ++ item :: after →
      Working.tryAll ⟨s.table, s.settings⟩ x.role s.lock before = .ok w →
      w.tryItem x.role s.lock item = .error reason →
      exec .apply s = .next (s.answered m 0x97 [byteOf before.length,
        match reason with
        | .keyExists => 1 | .notFound => 2 | .bucketFull => 3 | .prot => 4 | .waysConflict => 5
        | .badField => 6])

/-- R154, R99, R75 and R139: an APPLY whose items all pass takes effect whole. Items of the kinds that other
blocks draw state from reload the credits, adjust the meters and start a stopped repeat timer; start-only
items change nothing that runs. A field transmission whose end has passed keeps the TIMEOUT_CLASS values of
its end (R111, log 3). -/
def Obligations.ApplyTakesEffectWhole : Prop :=
  ∀ (s : State) (m : Mgt) (x : Session) (w : Working), s.Executes m → s.Owns m x → m.code = 0x0A →
    m.data = [] → s.store.op = none → x.list ≠ [] →
    Working.tryAll ⟨s.table, s.settings⟩ x.role s.lock x.list = .ok w →
    let has := fun i : ConfigItem => x.list.any (·.configures i)
    let done := fun y : FieldSend =>
      y.startedAt + (11 + y.telegram.data.length) * 10 * (32000000 / s.runningRate.get .field)
    ∃ (credits : PerPort Nat) (meters : Vector Meter 32) (notices : PerPort NoticeState),
      exec .apply s = .next (State.answered { s with
          table := w.table, settings := w.settings, session := some { x with list := [] }
          fieldTx := s.fieldTx.map fun y => if y.classes = none ∧ done y < s.now then
            { y with classes := some s.settings.timeoutClass } else y
          credits := credits, meters := meters, notices := notices } m 0x00 [byteOf x.list.length])
      ∧ (has (.share .a) ∨ has (.share .b) → credits = w.settings.share)
      ∧ (¬has (.share .a) → ¬has (.share .b) → credits = s.credits)
      ∧ (∀ n : Fin 32, ¬has (.meterSize n) → ¬has (.meterPeriod n) → meters[n] = s.meters[n])
      ∧ (∀ n : Fin 32, has (.meterSize n) →
        (meters[n]).size = w.settings.meterSize[n]
        ∧ (meters[n]).period = (if has (.meterPeriod n) then w.settings.meterPeriod[n]
          else (s.meters[n]).period)
        ∧ (meters[n]).tokens = min (s.meters[n]).tokens w.settings.meterSize[n]
        ∧ (w.settings.meterSize[n] ≤ (s.meters[n]).tokens → (meters[n]).refill = none)
        ∧ ((s.meters[n]).tokens < w.settings.meterSize[n] → (meters[n]).refill = some
          (if has (.meterPeriod n) then s.now + 32000 * w.settings.meterPeriod[n]
            else (s.meters[n]).refill.getD (s.now + 32000 * (s.meters[n]).period))))
      ∧ (∀ n : Fin 32, ¬has (.meterSize n) → has (.meterPeriod n) →
        meters[n] = { s.meters[n] with
          period := w.settings.meterPeriod[n]
          refill := if (s.meters[n]).tokens < (s.meters[n]).size then
              some (s.now + 32000 * w.settings.meterPeriod[n])
            else none })
      ∧ ∀ p, notices.get p =
        if has (.noticeMask p) ∧ (s.notice p).flags &&& w.settings.noticeMask.get p ≠ 0
            ∧ (s.notice p).timer = none then
          { s.notice p with timer := some (s.now + 32000 * w.settings.noticeRepeat) }
        else s.notice p

/-! ## Store and RESTART (spec 10) -/

/-- R166, R167, Table 10-2 and Table 10-3: a store operation of the owner. Checks 2 to 7 answer in their order
and change nothing. One that passes them starts: its target does not hold the newest VALID image and becomes
WRITING; it is recorded with its image and its limit of 1500 ms; the slot of its MGT is freed and no answer is
placed. -/
def Obligations.StoreOperationIsJudgedAndStarted : Prop :=
  ∀ (s : State) (m : Mgt) (x : Session) (c : Instr) (kind : StoreKind), s.Executes m → s.Owns m x →
    m.data = [] →
    m.code = 0x0C ∧ c = .commit ∧ kind = .commit ∨ m.code = 0x0D ∧ c = .setLock ∧ kind = .setLock
      ∨ m.code = 0x0E ∧ c = .eraseProtected ∧ kind = .eraseProtected →
    let busy := s.store.op.isSome = true
    let faulted := s.store.faulted = true
    let waits := kind ≠ .commit ∧ x.list ≠ []
    let locked := kind = .setLock ∧ s.lock = true
    let wrong := kind = .setLock ∧ x.role = .operator
    let spent := ∃ i g image, s.store.newest = some (i, g, image) ∧ 4294967295 ≤ g
    (busy → exec c s = .next (s.answered m 0x95 []))
    ∧ (¬busy → faulted → exec c s = .next (s.answered m 0x9B []))
    ∧ (¬busy → ¬faulted → waits → exec c s = .next (s.answered m 0xA0 []))
    ∧ (¬busy → ¬faulted → ¬waits → locked → exec c s = .next (s.answered m 0x93 []))
    ∧ (¬busy → ¬faulted → ¬waits → ¬locked → wrong → exec c s = .next (s.answered m 0x92 []))
    ∧ (¬busy → ¬faulted → ¬waits → ¬locked → ¬wrong → spent → exec c s = .next (s.answered m 0x9B []))
    ∧ (¬busy → ¬faulted → ¬waits → ¬locked → ¬wrong → ¬spent →
      ∃ (target : Fin 2) (generation : Nat) (table : Table),
        (∀ i g image, s.store.newest = some (i, g, image) → target ≠ i ∧ generation = g + 1)
        ∧ (s.store.newest = none → target = 0 ∧ generation = 1)
        ∧ (∀ (b : Fin 128) (w : Fin 4), table[b][w] = match s.table[b][w] with
            | none => none
            | some e => if kind = .eraseProtected ∧ e.prot = true then none else some { e with hits := 0 })
        ∧ exec c s = .next { s with
            slots := s.slots.tail
            store := { s.store with
              slot0 := if target = 0 then .writing else s.store.slot0
              slot1 := if target = 1 then .writing else s.store.slot1
              op := some {
                kind := kind, target := target, generation := generation, port := m.port
                source := m.source, tag := m.tag
                image := { settings := s.settings, table := table
                           lock := match kind with
                             | .commit => s.lock | .setLock => true | .eraseProtected => false }
                limit := s.now + 48000000 } } })

/-- R168, R169, R52, R53 and R150: the end of writing with an equal read-back. The MGA DONE and the notice that
STORE_DONE may place on the origin port are handed on in one happening, in either order (R128). -/
def Obligations.StoreOperationSucceeds : Prop :=
  ∀ (s : State) (op : StoreOp), s.phase = .running → s.store.op = some op →
    let code : Byte := match op.kind with | .commit => 0x0C | .setLock => 0x0D | .eraseProtected => 0x0E
    ∃ t table, exec (.storeWriteEnd .equal) s = .next t
      ∧ (op.kind ≠ .eraseProtected → table = s.table)
      ∧ (op.kind = .eraseProtected → ∀ (b : Fin 128) (w : Fin 4), table[b][w] =
          match s.table[b][w] with
          | none => none
          | some e => if e.prot then none else some e)
      ∧ State.TakenInSomeOrder { s with
          store := { s.store with
            slot0 := if op.target = 0 then .valid op.generation op.image else s.store.slot0
            slot1 := if op.target = 1 then .valid op.generation op.image else s.store.slot1
            op := none, failures := 0 }
          lock := match op.kind with | .commit => s.lock | .setLock => true | .eraseProtected => false
          table := table
          session := if op.kind = .setLock then s.session.map fun x =>
              if x.role = .integrator then { x with role := .operator, list := [] } else x
            else s.session }
        [State.answer op.port [⟨.mga, 0, op.source, 63, op.tag, code.setWidth 16, 0x00,
            byteOf op.target.val :: be32 op.generation⟩],
          State.request .storeDone .nothing .a, State.request .storeDone .nothing .b] t

/-- R168 and R170: a verify mismatch, or the running out of the limit, on time or taken late (log 3). The
target is ERASED, the third failure in a row sets FAULTED, and the live state is as it was. -/
def Obligations.StoreOperationFails : Prop :=
  ∀ (s : State) (op : StoreOp) (c : Instr) (cause : Byte), s.phase = .running → s.store.op = some op →
    c = .storeWriteEnd .mismatch ∧ cause = 2 ∨ c = .storeLimitExpiry ∧ cause = 1 →
    let code : Byte := match op.kind with | .commit => 0x0C | .setLock => 0x0D | .eraseProtected => 0x0E
    ∃ t, exec c s = .next t
      ∧ State.TakenInSomeOrder { s with
          now := if cause = 1 then max s.now op.limit else s.now
          store := { s.store with
            slot0 := if op.target = 0 then .erased else s.store.slot0
            slot1 := if op.target = 1 then .erased else s.store.slot1
            op := none, failures := s.store.failures + 1
            faulted := if 3 ≤ s.store.failures + 1 then true else s.store.faulted } }
        [State.answer op.port [⟨.mga, 0, op.source, 63, op.tag, code.setWidth 16, 0x9A,
            [byteOf op.target.val, cause]⟩],
          State.request .storeFailed .nothing .a, State.request .storeFailed .nothing .b] t

/-- R177, R55 and R162: RESTART of the owner: BUSY while a store operation is in flight, else the reload of the
newest image, or of the blank one. Its slot stays occupied and no answer is placed yet. A field transmission
whose end has passed keeps the TIMEOUT_CLASS values of its end (R111, log 3). -/
def Obligations.RestartReloads : Prop :=
  ∀ (s : State) (m : Mgt) (x : Session), s.Executes m → s.Owns m x → m.code = 0x1A → m.data = [] →
    let done := fun y : FieldSend =>
      y.startedAt + (11 + y.telegram.data.length) * 10 * (32000000 / s.runningRate.get .field)
    (s.store.op ≠ none → exec .restart s = .next (s.answered m 0x95 []))
    ∧ (s.store.op = none → ∃ t r, exec .restart s = .next t
        ∧ (∀ i g image, s.store.newest = some (i, g, image) → t.settings = image.settings
            ∧ t.lock = image.lock ∧ r.startSlot = some i
            ∧ ∀ (b : Fin 128) (w : Fin 4),
                t.table[b][w] = (image.table[b][w]).map fun e => { e with hits := 0 })
        ∧ (s.store.newest = none → t.settings = .default ∧ t.lock = false ∧ r.startSlot = none
            ∧ t.table = .blank)
        ∧ (r.fallback = true ↔ s.store.slot0 = .writing ∨ s.store.slot1 = .writing)
        ∧ r.holdDone = false ∧ r.transactionDone = false ∧ r.noticeDone = ⟨false, false⟩
        ∧ t = { s with
            table := t.table, lock := t.lock, settings := t.settings, session := none
            fieldTx := s.fieldTx.map fun y => if y.classes = none ∧ done y < s.now then
              { y with classes := some s.settings.timeoutClass } else y
            restart := some r })

/-- R178, R59, R76, R92, R106, R125, R141 and R179: the parts of a RESTART at the other blocks, and its answer
DONE. That each part is taken once, the notice part once at each port, and that the answer waits for all of
them, is the model's reading of R178 and R179 (log 17): a part taken already and an answer before all the
parts change nothing. -/
def Obligations.RestartPartsAreTakenAndAnswered : Prop :=
  ∀ (s : State) (r : RestartRun), s.phase = .running → s.restart = some r →
    let heldRun := fun p => (s.held.filter fun h => h.port = p).map fun h =>
      relayAnswer h.source h.station h.tag h.object 0x8E
    let entryRun := fun p => (s.entries.filter fun e => e.port = p).map fun e =>
      relayAnswer e.source e.station e.tag e.object 0x8E
    (r.holdDone = true → exec .restartHoldAndLeasePart s = .next s)
    ∧ (r.holdDone = false → ∃ meters : Vector Meter 32,
      (∀ n : Fin 32, meters[n]
          = ⟨s.settings.meterSize[n], s.settings.meterPeriod[n], s.settings.meterSize[n], none⟩)
      ∧ exec .restartHoldAndLeasePart s = .next (State.answer .b (heldRun .b) (State.answer .a (heldRun .a)
        { s with
          mode := s.settings.startMode, meters := meters, leases := Vector.replicate 16 none, held := []
          credits := s.settings.share, lastShare := .b, restart := some { r with holdDone := true } })))
    ∧ (r.transactionDone = true → exec .restartTransactionPart s = .next s)
    ∧ (r.transactionDone = false → ∃ stations : Vector Station 62,
      (∀ n, State.station { s with stations := stations } n
          = { s.station n with state := .idle, streak := 0, hold := none })
      ∧ exec .restartTransactionPart s = .next (State.answer .b (entryRun .b)
        (State.answer .a (entryRun .a) { s with
          entries := [], stations := stations, restart := some { r with transactionDone := true } })))
    ∧ (∀ p, r.noticeDone.get p = true → exec (.restartNoticePart p) s = .next s)
    ∧ (∀ p, r.noticeDone.get p = false →
      let told := State.request .started (.start .restart r.startSlot r.fallback) p
        { s with restart := some { r with noticeDone := r.noticeDone.set p true } }
      let n := told.notice p
      let stopped := n.flags &&& s.settings.noticeMask.get p ≠ 0 ∧ n.timer = none
      (stopped → exec (.restartNoticePart p) s = .next (told.withNotice p
        { n with timer := some (s.now + 32000 * s.settings.noticeRepeat) }))
      ∧ (¬stopped → exec (.restartNoticePart p) s = .next told))
    ∧ (¬(r.holdDone = true ∧ r.transactionDone = true ∧ ∀ p, r.noticeDone.get p = true) →
      exec .restartAnswer s = .next s)
    ∧ ∀ m, r.holdDone = true → r.transactionDone = true → (∀ p, r.noticeDone.get p = true) →
      s.slots.head? = some m →
      exec .restartAnswer s = .next (State.answered { s with restart := none } m 0x00 [])

/-! ## Properties that every step keeps, and who may change what -/

/-- R35 to R38, R157 and R164: no step leaves a key twice in the table, an entry on the wrong side of P or
outside its bucket, a field or a configuration item out of its range, live, staged or in an image. -/
def Obligations.EveryStepKeepsTheTables : Prop :=
  ∀ s t : State, s.TablesOk → step s = .next t → t.TablesOk

/-- R93: at most 40 held requests and 24 of one port, and no triple twice among held requests and
transactions. -/
def Obligations.EveryStepKeepsTheHoldQueue : Prop :=
  ∀ s t : State, s.HeldOk → step s = .next t → t.HeldOk

/-- R100: a held WRITE or TRIGGER is there only while its port holds the group recorded with it. So what a dispatch
takes from the hold queue is a READ, has no recorded group, or goes out under its lease. -/
def Obligations.EveryStepKeepsTheLeases : Prop :=
  (∀ s t : State, s.LeasesOk → step s = .next t → t.LeasesOk)
    ∧ ∀ s t : State, s.LeasesOk → exec .dispatch s = .next t → ∀ r ∈ s.held, r ∉ t.held →
        r.op = .read ∨ r.group = 0 ∨ t.holds r.port r.group = true

/-- R108, R118 and R93: at most 16 transactions, with different tags and stations; a station is BUSY exactly
while it has one; a hold timer runs exactly while a station is QUARANTINED, and no request is held for it. -/
def Obligations.EveryStepKeepsTheStations : Prop :=
  ∀ s t : State, s.StationsOk → step s = .next t → t.StationsOk

/-- R126, R129, R130 and R142: every REQ and MGT that was accepted and is not yet answered holds exactly one
reservation, placed answers plus reservations never exceed 40, and no transmitter rests while a telegram is
placed. -/
def Obligations.EveryStepKeepsTheAnswers : Prop :=
  ∀ s t : State, s.AnswersOk → step s = .next t → t.AnswersOk

/-- R163 and R165: the store's own order, and that no step alters the slot of the newest VALID image. -/
def Obligations.EveryStepKeepsTheNewestImage : Prop :=
  ∀ s t : State, s.StoreOk → step s = .next t → t.StoreOk
    ∧ ∀ i g image, s.store.newest = some (i, g, image) → t.store.slot i = .valid g image

/-- R150 and R151; R72 and R73; R136, R139 and R141: the session beside the lock, the meters, and the repeat
timers, each kept by every step. -/
def Obligations.EveryStepKeepsSessionMetersAndNotices : Prop :=
  ∀ s t : State, step s = .next t →
    (s.SessionOk → t.SessionOk) ∧ (s.MetersOk → t.MetersOk) ∧ (s.NoticesOk → t.NoticesOk)

/-- The properties above hold of State.reset. -/
def Obligations.ResetIsSound : Prop :=
  State.reset.TablesOk ∧ State.reset.HeldOk ∧ State.reset.LeasesOk ∧ State.reset.StationsOk
    ∧ State.reset.AnswersOk ∧ State.reset.StoreOk ∧ State.reset.SessionOk ∧ State.reset.MetersOk
    ∧ State.reset.NoticesOk

/-- Who may change the lock (R45), the table (R48, R40), the live configuration (R157), the mode (R56), the lease
groups (Table 5-1), the image slots (R163) and the relay tag counter (R109): a command outside the list leaves it
as it was. The commands that only lose what a start brings back (POWER_FAIL, RESET_N_FALL) stand in the lists
because of what lost state holds in the model (log 10). -/
def Obligations.OnlyTheseCommandsChange : Prop :=
  ∀ (c : Instr) (s t : State), exec c s = .next t →
    let starts := c = .powerFail ∨ c = .resetNFall ∨ c = .startUpLoadEnd
    (t.lock ≠ s.lock → starts ∨ c = .restart ∨ c = .storeWriteEnd .equal)
    ∧ (t.table ≠ s.table → starts ∨ c = .restart ∨ c = .storeWriteEnd .equal ∨ c = .apply
      ∨ ∃ st b, c = .hitCountRaise st b)
    ∧ (t.settings ≠ s.settings → starts ∨ c = .restart ∨ c = .apply)
    ∧ (t.mode ≠ s.mode → starts ∨ c = .setMode ∨ c = .restartHoldAndLeasePart)
    ∧ (t.leases ≠ s.leases → starts ∨ c = .leaseTake ∨ c = .leaseRenew ∨ c = .leaseRelease
      ∨ c = .restartHoldAndLeasePart ∨ (∃ g, c = .leaseExpiry g) ∨ ∃ p, c = .leaseReleaseOnLinkDown p)
    ∧ (t.store.slot0 ≠ s.store.slot0 ∨ t.store.slot1 ≠ s.store.slot1 →
      c = .commit ∨ c = .setLock ∨ c = .eraseProtected ∨ (∃ r, c = .storeWriteEnd r) ∨ c = .storeLimitExpiry)
    ∧ (t.tagCounter ≠ s.tagCounter → starts ∨ c = .dispatch)
    ∧ (t.session ≠ s.session → starts ∨ c = .restart ∨ c = .storeWriteEnd .equal ∨ c = .sessionIdleExpiry
      ∨ (∃ p, c = .sessionEndOnLinkDown p) ∨ (∃ p last, c = .controlTelegram p last)
      ∨ c ∈ [.sessionOpen, .sessionClose, .stageConfig, .stageAdd, .stageModify, .stageDelete, .apply, .discard])

end
end

