-- ==== Sys2Proof/Laws/State.lean ====
section
/-! SUPPORT. What each update of the state leaves in each field, one lemma a field, so that later proofs
never unfold a record update. -/

namespace Sys2Proof.Machine

/-! ### State.withOutput -/

@[simp] theorem State.withOutput_pending (s : State) (p : Port) (o : OutputUnit) :
    (s.withOutput p o).pending = s.pending := rfl

@[simp] theorem State.withOutput_now (s : State) (p : Port) (o : OutputUnit) :
    (s.withOutput p o).now = s.now := rfl

@[simp] theorem State.withOutput_choices (s : State) (p : Port) (o : OutputUnit) :
    (s.withOutput p o).choices = s.choices := rfl

@[simp] theorem State.withOutput_supply (s : State) (p : Port) (o : OutputUnit) :
    (s.withOutput p o).supply = s.supply := rfl

@[simp] theorem State.withOutput_resetLow (s : State) (p : Port) (o : OutputUnit) :
    (s.withOutput p o).resetLow = s.resetLow := rfl

@[simp] theorem State.withOutput_supplyLost (s : State) (p : Port) (o : OutputUnit) :
    (s.withOutput p o).supplyLost = s.supplyLost := rfl

@[simp] theorem State.withOutput_phase (s : State) (p : Port) (o : OutputUnit) :
    (s.withOutput p o).phase = s.phase := rfl

@[simp] theorem State.withOutput_runningRate (s : State) (p : Port) (o : OutputUnit) :
    (s.withOutput p o).runningRate = s.runningRate := rfl

@[simp] theorem State.withOutput_runningGap (s : State) (p : Port) (o : OutputUnit) :
    (s.withOutput p o).runningGap = s.runningGap := rfl

@[simp] theorem State.withOutput_rx (s : State) (p : Port) (o : OutputUnit) :
    (s.withOutput p o).rx = s.rx := rfl

@[simp] theorem State.withOutput_links (s : State) (p : Port) (o : OutputUnit) :
    (s.withOutput p o).links = s.links := rfl

@[simp] theorem State.withOutput_leaseDown (s : State) (p : Port) (o : OutputUnit) :
    (s.withOutput p o).leaseDown = s.leaseDown := rfl

@[simp] theorem State.withOutput_sessionDown (s : State) (p : Port) (o : OutputUnit) :
    (s.withOutput p o).sessionDown = s.sessionDown := rfl

@[simp] theorem State.withOutput_noticeDown (s : State) (p : Port) (o : OutputUnit) :
    (s.withOutput p o).noticeDown = s.noticeDown := rfl

@[simp] theorem State.withOutput_table (s : State) (p : Port) (o : OutputUnit) :
    (s.withOutput p o).table = s.table := rfl

@[simp] theorem State.withOutput_lock (s : State) (p : Port) (o : OutputUnit) :
    (s.withOutput p o).lock = s.lock := rfl

@[simp] theorem State.withOutput_settings (s : State) (p : Port) (o : OutputUnit) :
    (s.withOutput p o).settings = s.settings := rfl

@[simp] theorem State.withOutput_hitRaises (s : State) (p : Port) (o : OutputUnit) :
    (s.withOutput p o).hitRaises = s.hitRaises := rfl

@[simp] theorem State.withOutput_mode (s : State) (p : Port) (o : OutputUnit) :
    (s.withOutput p o).mode = s.mode := rfl

@[simp] theorem State.withOutput_meters (s : State) (p : Port) (o : OutputUnit) :
    (s.withOutput p o).meters = s.meters := rfl

@[simp] theorem State.withOutput_toScreen (s : State) (p : Port) (o : OutputUnit) :
    (s.withOutput p o).toScreen = s.toScreen := rfl

@[simp] theorem State.withOutput_isolatedPurges (s : State) (p : Port) (o : OutputUnit) :
    (s.withOutput p o).isolatedPurges = s.isolatedPurges := rfl

@[simp] theorem State.withOutput_leases (s : State) (p : Port) (o : OutputUnit) :
    (s.withOutput p o).leases = s.leases := rfl

@[simp] theorem State.withOutput_held (s : State) (p : Port) (o : OutputUnit) :
    (s.withOutput p o).held = s.held := rfl

@[simp] theorem State.withOutput_credits (s : State) (p : Port) (o : OutputUnit) :
    (s.withOutput p o).credits = s.credits := rfl

@[simp] theorem State.withOutput_lastShare (s : State) (p : Port) (o : OutputUnit) :
    (s.withOutput p o).lastShare = s.lastShare := rfl

@[simp] theorem State.withOutput_fieldTx (s : State) (p : Port) (o : OutputUnit) :
    (s.withOutput p o).fieldTx = s.fieldTx := rfl

@[simp] theorem State.withOutput_fieldEnd (s : State) (p : Port) (o : OutputUnit) :
    (s.withOutput p o).fieldEnd = s.fieldEnd := rfl

@[simp] theorem State.withOutput_entries (s : State) (p : Port) (o : OutputUnit) :
    (s.withOutput p o).entries = s.entries := rfl

@[simp] theorem State.withOutput_tagCounter (s : State) (p : Port) (o : OutputUnit) :
    (s.withOutput p o).tagCounter = s.tagCounter := rfl

@[simp] theorem State.withOutput_stations (s : State) (p : Port) (o : OutputUnit) :
    (s.withOutput p o).stations = s.stations := rfl

@[simp] theorem State.withOutput_outputs (s : State) (p : Port) (o : OutputUnit) :
    (s.withOutput p o).outputs = s.outputs.set p o := rfl

@[simp] theorem State.withOutput_notices (s : State) (p : Port) (o : OutputUnit) :
    (s.withOutput p o).notices = s.notices := rfl

@[simp] theorem State.withOutput_slots (s : State) (p : Port) (o : OutputUnit) :
    (s.withOutput p o).slots = s.slots := rfl

@[simp] theorem State.withOutput_session (s : State) (p : Port) (o : OutputUnit) :
    (s.withOutput p o).session = s.session := rfl

@[simp] theorem State.withOutput_restart (s : State) (p : Port) (o : OutputUnit) :
    (s.withOutput p o).restart = s.restart := rfl

@[simp] theorem State.withOutput_counters (s : State) (p : Port) (o : OutputUnit) :
    (s.withOutput p o).counters = s.counters := rfl

@[simp] theorem State.withOutput_fieldCounters (s : State) (p : Port) (o : OutputUnit) :
    (s.withOutput p o).fieldCounters = s.fieldCounters := rfl

@[simp] theorem State.withOutput_store (s : State) (p : Port) (o : OutputUnit) :
    (s.withOutput p o).store = s.store := rfl

/-! ### State.withNotice -/

@[simp] theorem State.withNotice_pending (s : State) (p : Port) (n : NoticeState) :
    (s.withNotice p n).pending = s.pending := rfl

@[simp] theorem State.withNotice_now (s : State) (p : Port) (n : NoticeState) :
    (s.withNotice p n).now = s.now := rfl

@[simp] theorem State.withNotice_choices (s : State) (p : Port) (n : NoticeState) :
    (s.withNotice p n).choices = s.choices := rfl

@[simp] theorem State.withNotice_supply (s : State) (p : Port) (n : NoticeState) :
    (s.withNotice p n).supply = s.supply := rfl

@[simp] theorem State.withNotice_resetLow (s : State) (p : Port) (n : NoticeState) :
    (s.withNotice p n).resetLow = s.resetLow := rfl

@[simp] theorem State.withNotice_supplyLost (s : State) (p : Port) (n : NoticeState) :
    (s.withNotice p n).supplyLost = s.supplyLost := rfl

@[simp] theorem State.withNotice_phase (s : State) (p : Port) (n : NoticeState) :
    (s.withNotice p n).phase = s.phase := rfl

@[simp] theorem State.withNotice_runningRate (s : State) (p : Port) (n : NoticeState) :
    (s.withNotice p n).runningRate = s.runningRate := rfl

@[simp] theorem State.withNotice_runningGap (s : State) (p : Port) (n : NoticeState) :
    (s.withNotice p n).runningGap = s.runningGap := rfl

@[simp] theorem State.withNotice_rx (s : State) (p : Port) (n : NoticeState) :
    (s.withNotice p n).rx = s.rx := rfl

@[simp] theorem State.withNotice_links (s : State) (p : Port) (n : NoticeState) :
    (s.withNotice p n).links = s.links := rfl

@[simp] theorem State.withNotice_leaseDown (s : State) (p : Port) (n : NoticeState) :
    (s.withNotice p n).leaseDown = s.leaseDown := rfl

@[simp] theorem State.withNotice_sessionDown (s : State) (p : Port) (n : NoticeState) :
    (s.withNotice p n).sessionDown = s.sessionDown := rfl

@[simp] theorem State.withNotice_noticeDown (s : State) (p : Port) (n : NoticeState) :
    (s.withNotice p n).noticeDown = s.noticeDown := rfl

@[simp] theorem State.withNotice_table (s : State) (p : Port) (n : NoticeState) :
    (s.withNotice p n).table = s.table := rfl

@[simp] theorem State.withNotice_lock (s : State) (p : Port) (n : NoticeState) :
    (s.withNotice p n).lock = s.lock := rfl

@[simp] theorem State.withNotice_settings (s : State) (p : Port) (n : NoticeState) :
    (s.withNotice p n).settings = s.settings := rfl

@[simp] theorem State.withNotice_hitRaises (s : State) (p : Port) (n : NoticeState) :
    (s.withNotice p n).hitRaises = s.hitRaises := rfl

@[simp] theorem State.withNotice_mode (s : State) (p : Port) (n : NoticeState) :
    (s.withNotice p n).mode = s.mode := rfl

@[simp] theorem State.withNotice_meters (s : State) (p : Port) (n : NoticeState) :
    (s.withNotice p n).meters = s.meters := rfl

@[simp] theorem State.withNotice_toScreen (s : State) (p : Port) (n : NoticeState) :
    (s.withNotice p n).toScreen = s.toScreen := rfl

@[simp] theorem State.withNotice_isolatedPurges (s : State) (p : Port) (n : NoticeState) :
    (s.withNotice p n).isolatedPurges = s.isolatedPurges := rfl

@[simp] theorem State.withNotice_leases (s : State) (p : Port) (n : NoticeState) :
    (s.withNotice p n).leases = s.leases := rfl

@[simp] theorem State.withNotice_held (s : State) (p : Port) (n : NoticeState) :
    (s.withNotice p n).held = s.held := rfl

@[simp] theorem State.withNotice_credits (s : State) (p : Port) (n : NoticeState) :
    (s.withNotice p n).credits = s.credits := rfl

@[simp] theorem State.withNotice_lastShare (s : State) (p : Port) (n : NoticeState) :
    (s.withNotice p n).lastShare = s.lastShare := rfl

@[simp] theorem State.withNotice_fieldTx (s : State) (p : Port) (n : NoticeState) :
    (s.withNotice p n).fieldTx = s.fieldTx := rfl

@[simp] theorem State.withNotice_fieldEnd (s : State) (p : Port) (n : NoticeState) :
    (s.withNotice p n).fieldEnd = s.fieldEnd := rfl

@[simp] theorem State.withNotice_entries (s : State) (p : Port) (n : NoticeState) :
    (s.withNotice p n).entries = s.entries := rfl

@[simp] theorem State.withNotice_tagCounter (s : State) (p : Port) (n : NoticeState) :
    (s.withNotice p n).tagCounter = s.tagCounter := rfl

@[simp] theorem State.withNotice_stations (s : State) (p : Port) (n : NoticeState) :
    (s.withNotice p n).stations = s.stations := rfl

@[simp] theorem State.withNotice_outputs (s : State) (p : Port) (n : NoticeState) :
    (s.withNotice p n).outputs = s.outputs := rfl

@[simp] theorem State.withNotice_notices (s : State) (p : Port) (n : NoticeState) :
    (s.withNotice p n).notices = s.notices.set p n := rfl

@[simp] theorem State.withNotice_slots (s : State) (p : Port) (n : NoticeState) :
    (s.withNotice p n).slots = s.slots := rfl

@[simp] theorem State.withNotice_session (s : State) (p : Port) (n : NoticeState) :
    (s.withNotice p n).session = s.session := rfl

@[simp] theorem State.withNotice_restart (s : State) (p : Port) (n : NoticeState) :
    (s.withNotice p n).restart = s.restart := rfl

@[simp] theorem State.withNotice_counters (s : State) (p : Port) (n : NoticeState) :
    (s.withNotice p n).counters = s.counters := rfl

@[simp] theorem State.withNotice_fieldCounters (s : State) (p : Port) (n : NoticeState) :
    (s.withNotice p n).fieldCounters = s.fieldCounters := rfl

@[simp] theorem State.withNotice_store (s : State) (p : Port) (n : NoticeState) :
    (s.withNotice p n).store = s.store := rfl

/-! ### State.withLease -/

@[simp] theorem State.withLease_pending (s : State) (g : Nat) (l : Option Lease) :
    (s.withLease g l).pending = s.pending := by cases g <;> rfl

@[simp] theorem State.withLease_now (s : State) (g : Nat) (l : Option Lease) :
    (s.withLease g l).now = s.now := by cases g <;> rfl

@[simp] theorem State.withLease_choices (s : State) (g : Nat) (l : Option Lease) :
    (s.withLease g l).choices = s.choices := by cases g <;> rfl

@[simp] theorem State.withLease_supply (s : State) (g : Nat) (l : Option Lease) :
    (s.withLease g l).supply = s.supply := by cases g <;> rfl

@[simp] theorem State.withLease_resetLow (s : State) (g : Nat) (l : Option Lease) :
    (s.withLease g l).resetLow = s.resetLow := by cases g <;> rfl

@[simp] theorem State.withLease_supplyLost (s : State) (g : Nat) (l : Option Lease) :
    (s.withLease g l).supplyLost = s.supplyLost := by cases g <;> rfl

@[simp] theorem State.withLease_phase (s : State) (g : Nat) (l : Option Lease) :
    (s.withLease g l).phase = s.phase := by cases g <;> rfl

@[simp] theorem State.withLease_runningRate (s : State) (g : Nat) (l : Option Lease) :
    (s.withLease g l).runningRate = s.runningRate := by cases g <;> rfl

@[simp] theorem State.withLease_runningGap (s : State) (g : Nat) (l : Option Lease) :
    (s.withLease g l).runningGap = s.runningGap := by cases g <;> rfl

@[simp] theorem State.withLease_rx (s : State) (g : Nat) (l : Option Lease) :
    (s.withLease g l).rx = s.rx := by cases g <;> rfl

@[simp] theorem State.withLease_links (s : State) (g : Nat) (l : Option Lease) :
    (s.withLease g l).links = s.links := by cases g <;> rfl

@[simp] theorem State.withLease_leaseDown (s : State) (g : Nat) (l : Option Lease) :
    (s.withLease g l).leaseDown = s.leaseDown := by cases g <;> rfl

@[simp] theorem State.withLease_sessionDown (s : State) (g : Nat) (l : Option Lease) :
    (s.withLease g l).sessionDown = s.sessionDown := by cases g <;> rfl

@[simp] theorem State.withLease_noticeDown (s : State) (g : Nat) (l : Option Lease) :
    (s.withLease g l).noticeDown = s.noticeDown := by cases g <;> rfl

@[simp] theorem State.withLease_table (s : State) (g : Nat) (l : Option Lease) :
    (s.withLease g l).table = s.table := by cases g <;> rfl

@[simp] theorem State.withLease_lock (s : State) (g : Nat) (l : Option Lease) :
    (s.withLease g l).lock = s.lock := by cases g <;> rfl

@[simp] theorem State.withLease_settings (s : State) (g : Nat) (l : Option Lease) :
    (s.withLease g l).settings = s.settings := by cases g <;> rfl

@[simp] theorem State.withLease_hitRaises (s : State) (g : Nat) (l : Option Lease) :
    (s.withLease g l).hitRaises = s.hitRaises := by cases g <;> rfl

@[simp] theorem State.withLease_mode (s : State) (g : Nat) (l : Option Lease) :
    (s.withLease g l).mode = s.mode := by cases g <;> rfl

@[simp] theorem State.withLease_meters (s : State) (g : Nat) (l : Option Lease) :
    (s.withLease g l).meters = s.meters := by cases g <;> rfl

@[simp] theorem State.withLease_toScreen (s : State) (g : Nat) (l : Option Lease) :
    (s.withLease g l).toScreen = s.toScreen := by cases g <;> rfl

@[simp] theorem State.withLease_isolatedPurges (s : State) (g : Nat) (l : Option Lease) :
    (s.withLease g l).isolatedPurges = s.isolatedPurges := by cases g <;> rfl

@[simp] theorem State.withLease_held (s : State) (g : Nat) (l : Option Lease) :
    (s.withLease g l).held = s.held := by cases g <;> rfl

@[simp] theorem State.withLease_credits (s : State) (g : Nat) (l : Option Lease) :
    (s.withLease g l).credits = s.credits := by cases g <;> rfl

@[simp] theorem State.withLease_lastShare (s : State) (g : Nat) (l : Option Lease) :
    (s.withLease g l).lastShare = s.lastShare := by cases g <;> rfl

@[simp] theorem State.withLease_fieldTx (s : State) (g : Nat) (l : Option Lease) :
    (s.withLease g l).fieldTx = s.fieldTx := by cases g <;> rfl

@[simp] theorem State.withLease_fieldEnd (s : State) (g : Nat) (l : Option Lease) :
    (s.withLease g l).fieldEnd = s.fieldEnd := by cases g <;> rfl

@[simp] theorem State.withLease_entries (s : State) (g : Nat) (l : Option Lease) :
    (s.withLease g l).entries = s.entries := by cases g <;> rfl

@[simp] theorem State.withLease_tagCounter (s : State) (g : Nat) (l : Option Lease) :
    (s.withLease g l).tagCounter = s.tagCounter := by cases g <;> rfl

@[simp] theorem State.withLease_stations (s : State) (g : Nat) (l : Option Lease) :
    (s.withLease g l).stations = s.stations := by cases g <;> rfl

@[simp] theorem State.withLease_outputs (s : State) (g : Nat) (l : Option Lease) :
    (s.withLease g l).outputs = s.outputs := by cases g <;> rfl

@[simp] theorem State.withLease_notices (s : State) (g : Nat) (l : Option Lease) :
    (s.withLease g l).notices = s.notices := by cases g <;> rfl

@[simp] theorem State.withLease_slots (s : State) (g : Nat) (l : Option Lease) :
    (s.withLease g l).slots = s.slots := by cases g <;> rfl

@[simp] theorem State.withLease_session (s : State) (g : Nat) (l : Option Lease) :
    (s.withLease g l).session = s.session := by cases g <;> rfl

@[simp] theorem State.withLease_restart (s : State) (g : Nat) (l : Option Lease) :
    (s.withLease g l).restart = s.restart := by cases g <;> rfl

@[simp] theorem State.withLease_counters (s : State) (g : Nat) (l : Option Lease) :
    (s.withLease g l).counters = s.counters := by cases g <;> rfl

@[simp] theorem State.withLease_fieldCounters (s : State) (g : Nat) (l : Option Lease) :
    (s.withLease g l).fieldCounters = s.fieldCounters := by cases g <;> rfl

@[simp] theorem State.withLease_store (s : State) (g : Nat) (l : Option Lease) :
    (s.withLease g l).store = s.store := by cases g <;> rfl

/-! ### State.withStation -/

@[simp] theorem State.withStation_pending (s : State) (k : Nat) (r : Station) :
    (s.withStation k r).pending = s.pending := by cases k <;> rfl

@[simp] theorem State.withStation_now (s : State) (k : Nat) (r : Station) :
    (s.withStation k r).now = s.now := by cases k <;> rfl

@[simp] theorem State.withStation_choices (s : State) (k : Nat) (r : Station) :
    (s.withStation k r).choices = s.choices := by cases k <;> rfl

@[simp] theorem State.withStation_supply (s : State) (k : Nat) (r : Station) :
    (s.withStation k r).supply = s.supply := by cases k <;> rfl

@[simp] theorem State.withStation_resetLow (s : State) (k : Nat) (r : Station) :
    (s.withStation k r).resetLow = s.resetLow := by cases k <;> rfl

@[simp] theorem State.withStation_supplyLost (s : State) (k : Nat) (r : Station) :
    (s.withStation k r).supplyLost = s.supplyLost := by cases k <;> rfl

@[simp] theorem State.withStation_phase (s : State) (k : Nat) (r : Station) :
    (s.withStation k r).phase = s.phase := by cases k <;> rfl

@[simp] theorem State.withStation_runningRate (s : State) (k : Nat) (r : Station) :
    (s.withStation k r).runningRate = s.runningRate := by cases k <;> rfl

@[simp] theorem State.withStation_runningGap (s : State) (k : Nat) (r : Station) :
    (s.withStation k r).runningGap = s.runningGap := by cases k <;> rfl

@[simp] theorem State.withStation_rx (s : State) (k : Nat) (r : Station) :
    (s.withStation k r).rx = s.rx := by cases k <;> rfl

@[simp] theorem State.withStation_links (s : State) (k : Nat) (r : Station) :
    (s.withStation k r).links = s.links := by cases k <;> rfl

@[simp] theorem State.withStation_leaseDown (s : State) (k : Nat) (r : Station) :
    (s.withStation k r).leaseDown = s.leaseDown := by cases k <;> rfl

@[simp] theorem State.withStation_sessionDown (s : State) (k : Nat) (r : Station) :
    (s.withStation k r).sessionDown = s.sessionDown := by cases k <;> rfl

@[simp] theorem State.withStation_noticeDown (s : State) (k : Nat) (r : Station) :
    (s.withStation k r).noticeDown = s.noticeDown := by cases k <;> rfl

@[simp] theorem State.withStation_table (s : State) (k : Nat) (r : Station) :
    (s.withStation k r).table = s.table := by cases k <;> rfl

@[simp] theorem State.withStation_lock (s : State) (k : Nat) (r : Station) :
    (s.withStation k r).lock = s.lock := by cases k <;> rfl

@[simp] theorem State.withStation_settings (s : State) (k : Nat) (r : Station) :
    (s.withStation k r).settings = s.settings := by cases k <;> rfl

@[simp] theorem State.withStation_hitRaises (s : State) (k : Nat) (r : Station) :
    (s.withStation k r).hitRaises = s.hitRaises := by cases k <;> rfl

@[simp] theorem State.withStation_mode (s : State) (k : Nat) (r : Station) :
    (s.withStation k r).mode = s.mode := by cases k <;> rfl

@[simp] theorem State.withStation_meters (s : State) (k : Nat) (r : Station) :
    (s.withStation k r).meters = s.meters := by cases k <;> rfl

@[simp] theorem State.withStation_toScreen (s : State) (k : Nat) (r : Station) :
    (s.withStation k r).toScreen = s.toScreen := by cases k <;> rfl

@[simp] theorem State.withStation_isolatedPurges (s : State) (k : Nat) (r : Station) :
    (s.withStation k r).isolatedPurges = s.isolatedPurges := by cases k <;> rfl

@[simp] theorem State.withStation_leases (s : State) (k : Nat) (r : Station) :
    (s.withStation k r).leases = s.leases := by cases k <;> rfl

@[simp] theorem State.withStation_held (s : State) (k : Nat) (r : Station) :
    (s.withStation k r).held = s.held := by cases k <;> rfl

@[simp] theorem State.withStation_credits (s : State) (k : Nat) (r : Station) :
    (s.withStation k r).credits = s.credits := by cases k <;> rfl

@[simp] theorem State.withStation_lastShare (s : State) (k : Nat) (r : Station) :
    (s.withStation k r).lastShare = s.lastShare := by cases k <;> rfl

@[simp] theorem State.withStation_fieldTx (s : State) (k : Nat) (r : Station) :
    (s.withStation k r).fieldTx = s.fieldTx := by cases k <;> rfl

@[simp] theorem State.withStation_fieldEnd (s : State) (k : Nat) (r : Station) :
    (s.withStation k r).fieldEnd = s.fieldEnd := by cases k <;> rfl

@[simp] theorem State.withStation_entries (s : State) (k : Nat) (r : Station) :
    (s.withStation k r).entries = s.entries := by cases k <;> rfl

@[simp] theorem State.withStation_tagCounter (s : State) (k : Nat) (r : Station) :
    (s.withStation k r).tagCounter = s.tagCounter := by cases k <;> rfl

@[simp] theorem State.withStation_outputs (s : State) (k : Nat) (r : Station) :
    (s.withStation k r).outputs = s.outputs := by cases k <;> rfl

@[simp] theorem State.withStation_notices (s : State) (k : Nat) (r : Station) :
    (s.withStation k r).notices = s.notices := by cases k <;> rfl

@[simp] theorem State.withStation_slots (s : State) (k : Nat) (r : Station) :
    (s.withStation k r).slots = s.slots := by cases k <;> rfl

@[simp] theorem State.withStation_session (s : State) (k : Nat) (r : Station) :
    (s.withStation k r).session = s.session := by cases k <;> rfl

@[simp] theorem State.withStation_restart (s : State) (k : Nat) (r : Station) :
    (s.withStation k r).restart = s.restart := by cases k <;> rfl

@[simp] theorem State.withStation_counters (s : State) (k : Nat) (r : Station) :
    (s.withStation k r).counters = s.counters := by cases k <;> rfl

@[simp] theorem State.withStation_fieldCounters (s : State) (k : Nat) (r : Station) :
    (s.withStation k r).fieldCounters = s.fieldCounters := by cases k <;> rfl

@[simp] theorem State.withStation_store (s : State) (k : Nat) (r : Station) :
    (s.withStation k r).store = s.store := by cases k <;> rfl

/-! ### State.withMeter -/

@[simp] theorem State.withMeter_pending (s : State) (k : Nat) (m : Meter) :
    (s.withMeter k m).pending = s.pending := by cases k <;> rfl

@[simp] theorem State.withMeter_now (s : State) (k : Nat) (m : Meter) :
    (s.withMeter k m).now = s.now := by cases k <;> rfl

@[simp] theorem State.withMeter_choices (s : State) (k : Nat) (m : Meter) :
    (s.withMeter k m).choices = s.choices := by cases k <;> rfl

@[simp] theorem State.withMeter_supply (s : State) (k : Nat) (m : Meter) :
    (s.withMeter k m).supply = s.supply := by cases k <;> rfl

@[simp] theorem State.withMeter_resetLow (s : State) (k : Nat) (m : Meter) :
    (s.withMeter k m).resetLow = s.resetLow := by cases k <;> rfl

@[simp] theorem State.withMeter_supplyLost (s : State) (k : Nat) (m : Meter) :
    (s.withMeter k m).supplyLost = s.supplyLost := by cases k <;> rfl

@[simp] theorem State.withMeter_phase (s : State) (k : Nat) (m : Meter) :
    (s.withMeter k m).phase = s.phase := by cases k <;> rfl

@[simp] theorem State.withMeter_runningRate (s : State) (k : Nat) (m : Meter) :
    (s.withMeter k m).runningRate = s.runningRate := by cases k <;> rfl

@[simp] theorem State.withMeter_runningGap (s : State) (k : Nat) (m : Meter) :
    (s.withMeter k m).runningGap = s.runningGap := by cases k <;> rfl

@[simp] theorem State.withMeter_rx (s : State) (k : Nat) (m : Meter) :
    (s.withMeter k m).rx = s.rx := by cases k <;> rfl

@[simp] theorem State.withMeter_links (s : State) (k : Nat) (m : Meter) :
    (s.withMeter k m).links = s.links := by cases k <;> rfl

@[simp] theorem State.withMeter_leaseDown (s : State) (k : Nat) (m : Meter) :
    (s.withMeter k m).leaseDown = s.leaseDown := by cases k <;> rfl

@[simp] theorem State.withMeter_sessionDown (s : State) (k : Nat) (m : Meter) :
    (s.withMeter k m).sessionDown = s.sessionDown := by cases k <;> rfl

@[simp] theorem State.withMeter_noticeDown (s : State) (k : Nat) (m : Meter) :
    (s.withMeter k m).noticeDown = s.noticeDown := by cases k <;> rfl

@[simp] theorem State.withMeter_table (s : State) (k : Nat) (m : Meter) :
    (s.withMeter k m).table = s.table := by cases k <;> rfl

@[simp] theorem State.withMeter_lock (s : State) (k : Nat) (m : Meter) :
    (s.withMeter k m).lock = s.lock := by cases k <;> rfl

@[simp] theorem State.withMeter_settings (s : State) (k : Nat) (m : Meter) :
    (s.withMeter k m).settings = s.settings := by cases k <;> rfl

@[simp] theorem State.withMeter_hitRaises (s : State) (k : Nat) (m : Meter) :
    (s.withMeter k m).hitRaises = s.hitRaises := by cases k <;> rfl

@[simp] theorem State.withMeter_mode (s : State) (k : Nat) (m : Meter) :
    (s.withMeter k m).mode = s.mode := by cases k <;> rfl

@[simp] theorem State.withMeter_toScreen (s : State) (k : Nat) (m : Meter) :
    (s.withMeter k m).toScreen = s.toScreen := by cases k <;> rfl

@[simp] theorem State.withMeter_isolatedPurges (s : State) (k : Nat) (m : Meter) :
    (s.withMeter k m).isolatedPurges = s.isolatedPurges := by cases k <;> rfl

@[simp] theorem State.withMeter_leases (s : State) (k : Nat) (m : Meter) :
    (s.withMeter k m).leases = s.leases := by cases k <;> rfl

@[simp] theorem State.withMeter_held (s : State) (k : Nat) (m : Meter) :
    (s.withMeter k m).held = s.held := by cases k <;> rfl

@[simp] theorem State.withMeter_credits (s : State) (k : Nat) (m : Meter) :
    (s.withMeter k m).credits = s.credits := by cases k <;> rfl

@[simp] theorem State.withMeter_lastShare (s : State) (k : Nat) (m : Meter) :
    (s.withMeter k m).lastShare = s.lastShare := by cases k <;> rfl

@[simp] theorem State.withMeter_fieldTx (s : State) (k : Nat) (m : Meter) :
    (s.withMeter k m).fieldTx = s.fieldTx := by cases k <;> rfl

@[simp] theorem State.withMeter_fieldEnd (s : State) (k : Nat) (m : Meter) :
    (s.withMeter k m).fieldEnd = s.fieldEnd := by cases k <;> rfl

@[simp] theorem State.withMeter_entries (s : State) (k : Nat) (m : Meter) :
    (s.withMeter k m).entries = s.entries := by cases k <;> rfl

@[simp] theorem State.withMeter_tagCounter (s : State) (k : Nat) (m : Meter) :
    (s.withMeter k m).tagCounter = s.tagCounter := by cases k <;> rfl

@[simp] theorem State.withMeter_stations (s : State) (k : Nat) (m : Meter) :
    (s.withMeter k m).stations = s.stations := by cases k <;> rfl

@[simp] theorem State.withMeter_outputs (s : State) (k : Nat) (m : Meter) :
    (s.withMeter k m).outputs = s.outputs := by cases k <;> rfl

@[simp] theorem State.withMeter_notices (s : State) (k : Nat) (m : Meter) :
    (s.withMeter k m).notices = s.notices := by cases k <;> rfl

@[simp] theorem State.withMeter_slots (s : State) (k : Nat) (m : Meter) :
    (s.withMeter k m).slots = s.slots := by cases k <;> rfl

@[simp] theorem State.withMeter_session (s : State) (k : Nat) (m : Meter) :
    (s.withMeter k m).session = s.session := by cases k <;> rfl

@[simp] theorem State.withMeter_restart (s : State) (k : Nat) (m : Meter) :
    (s.withMeter k m).restart = s.restart := by cases k <;> rfl

@[simp] theorem State.withMeter_counters (s : State) (k : Nat) (m : Meter) :
    (s.withMeter k m).counters = s.counters := by cases k <;> rfl

@[simp] theorem State.withMeter_fieldCounters (s : State) (k : Nat) (m : Meter) :
    (s.withMeter k m).fieldCounters = s.fieldCounters := by cases k <;> rfl

@[simp] theorem State.withMeter_store (s : State) (k : Nat) (m : Meter) :
    (s.withMeter k m).store = s.store := by cases k <;> rfl

/-! ### State.withSession -/

@[simp] theorem State.withSession_pending (s : State) (x : Option Session) :
    (s.withSession x).pending = s.pending := rfl

@[simp] theorem State.withSession_now (s : State) (x : Option Session) :
    (s.withSession x).now = s.now := rfl

@[simp] theorem State.withSession_choices (s : State) (x : Option Session) :
    (s.withSession x).choices = s.choices := rfl

@[simp] theorem State.withSession_supply (s : State) (x : Option Session) :
    (s.withSession x).supply = s.supply := rfl

@[simp] theorem State.withSession_resetLow (s : State) (x : Option Session) :
    (s.withSession x).resetLow = s.resetLow := rfl

@[simp] theorem State.withSession_supplyLost (s : State) (x : Option Session) :
    (s.withSession x).supplyLost = s.supplyLost := rfl

@[simp] theorem State.withSession_phase (s : State) (x : Option Session) :
    (s.withSession x).phase = s.phase := rfl

@[simp] theorem State.withSession_runningRate (s : State) (x : Option Session) :
    (s.withSession x).runningRate = s.runningRate := rfl

@[simp] theorem State.withSession_runningGap (s : State) (x : Option Session) :
    (s.withSession x).runningGap = s.runningGap := rfl

@[simp] theorem State.withSession_rx (s : State) (x : Option Session) :
    (s.withSession x).rx = s.rx := rfl

@[simp] theorem State.withSession_links (s : State) (x : Option Session) :
    (s.withSession x).links = s.links := rfl

@[simp] theorem State.withSession_leaseDown (s : State) (x : Option Session) :
    (s.withSession x).leaseDown = s.leaseDown := rfl

@[simp] theorem State.withSession_sessionDown (s : State) (x : Option Session) :
    (s.withSession x).sessionDown = s.sessionDown := rfl

@[simp] theorem State.withSession_noticeDown (s : State) (x : Option Session) :
    (s.withSession x).noticeDown = s.noticeDown := rfl

@[simp] theorem State.withSession_table (s : State) (x : Option Session) :
    (s.withSession x).table = s.table := rfl

@[simp] theorem State.withSession_lock (s : State) (x : Option Session) :
    (s.withSession x).lock = s.lock := rfl

@[simp] theorem State.withSession_settings (s : State) (x : Option Session) :
    (s.withSession x).settings = s.settings := rfl

@[simp] theorem State.withSession_hitRaises (s : State) (x : Option Session) :
    (s.withSession x).hitRaises = s.hitRaises := rfl

@[simp] theorem State.withSession_mode (s : State) (x : Option Session) :
    (s.withSession x).mode = s.mode := rfl

@[simp] theorem State.withSession_meters (s : State) (x : Option Session) :
    (s.withSession x).meters = s.meters := rfl

@[simp] theorem State.withSession_toScreen (s : State) (x : Option Session) :
    (s.withSession x).toScreen = s.toScreen := rfl

@[simp] theorem State.withSession_isolatedPurges (s : State) (x : Option Session) :
    (s.withSession x).isolatedPurges = s.isolatedPurges := rfl

@[simp] theorem State.withSession_leases (s : State) (x : Option Session) :
    (s.withSession x).leases = s.leases := rfl

@[simp] theorem State.withSession_held (s : State) (x : Option Session) :
    (s.withSession x).held = s.held := rfl

@[simp] theorem State.withSession_credits (s : State) (x : Option Session) :
    (s.withSession x).credits = s.credits := rfl

@[simp] theorem State.withSession_lastShare (s : State) (x : Option Session) :
    (s.withSession x).lastShare = s.lastShare := rfl

@[simp] theorem State.withSession_fieldTx (s : State) (x : Option Session) :
    (s.withSession x).fieldTx = s.fieldTx := rfl

@[simp] theorem State.withSession_fieldEnd (s : State) (x : Option Session) :
    (s.withSession x).fieldEnd = s.fieldEnd := rfl

@[simp] theorem State.withSession_entries (s : State) (x : Option Session) :
    (s.withSession x).entries = s.entries := rfl

@[simp] theorem State.withSession_tagCounter (s : State) (x : Option Session) :
    (s.withSession x).tagCounter = s.tagCounter := rfl

@[simp] theorem State.withSession_stations (s : State) (x : Option Session) :
    (s.withSession x).stations = s.stations := rfl

@[simp] theorem State.withSession_outputs (s : State) (x : Option Session) :
    (s.withSession x).outputs = s.outputs := rfl

@[simp] theorem State.withSession_notices (s : State) (x : Option Session) :
    (s.withSession x).notices = s.notices := rfl

@[simp] theorem State.withSession_slots (s : State) (x : Option Session) :
    (s.withSession x).slots = s.slots := rfl

@[simp] theorem State.withSession_session (s : State) (x : Option Session) :
    (s.withSession x).session = x := rfl

@[simp] theorem State.withSession_restart (s : State) (x : Option Session) :
    (s.withSession x).restart = s.restart := rfl

@[simp] theorem State.withSession_counters (s : State) (x : Option Session) :
    (s.withSession x).counters = s.counters := rfl

@[simp] theorem State.withSession_fieldCounters (s : State) (x : Option Session) :
    (s.withSession x).fieldCounters = s.fieldCounters := rfl

@[simp] theorem State.withSession_store (s : State) (x : Option Session) :
    (s.withSession x).store = s.store := rfl

/-! ### State.reach -/

@[simp] theorem State.reach_pending (s : State) (k : Nat) :
    (s.reach k).pending = s.pending := rfl

@[simp] theorem State.reach_now (s : State) (k : Nat) :
    (s.reach k).now = max s.now k := rfl

@[simp] theorem State.reach_choices (s : State) (k : Nat) :
    (s.reach k).choices = s.choices := rfl

@[simp] theorem State.reach_supply (s : State) (k : Nat) :
    (s.reach k).supply = s.supply := rfl

@[simp] theorem State.reach_resetLow (s : State) (k : Nat) :
    (s.reach k).resetLow = s.resetLow := rfl

@[simp] theorem State.reach_supplyLost (s : State) (k : Nat) :
    (s.reach k).supplyLost = s.supplyLost := rfl

@[simp] theorem State.reach_phase (s : State) (k : Nat) :
    (s.reach k).phase = s.phase := rfl

@[simp] theorem State.reach_runningRate (s : State) (k : Nat) :
    (s.reach k).runningRate = s.runningRate := rfl

@[simp] theorem State.reach_runningGap (s : State) (k : Nat) :
    (s.reach k).runningGap = s.runningGap := rfl

@[simp] theorem State.reach_rx (s : State) (k : Nat) :
    (s.reach k).rx = s.rx := rfl

@[simp] theorem State.reach_links (s : State) (k : Nat) :
    (s.reach k).links = s.links := rfl

@[simp] theorem State.reach_leaseDown (s : State) (k : Nat) :
    (s.reach k).leaseDown = s.leaseDown := rfl

@[simp] theorem State.reach_sessionDown (s : State) (k : Nat) :
    (s.reach k).sessionDown = s.sessionDown := rfl

@[simp] theorem State.reach_noticeDown (s : State) (k : Nat) :
    (s.reach k).noticeDown = s.noticeDown := rfl

@[simp] theorem State.reach_table (s : State) (k : Nat) :
    (s.reach k).table = s.table := rfl

@[simp] theorem State.reach_lock (s : State) (k : Nat) :
    (s.reach k).lock = s.lock := rfl

@[simp] theorem State.reach_settings (s : State) (k : Nat) :
    (s.reach k).settings = s.settings := rfl

@[simp] theorem State.reach_hitRaises (s : State) (k : Nat) :
    (s.reach k).hitRaises = s.hitRaises := rfl

@[simp] theorem State.reach_mode (s : State) (k : Nat) :
    (s.reach k).mode = s.mode := rfl

@[simp] theorem State.reach_meters (s : State) (k : Nat) :
    (s.reach k).meters = s.meters := rfl

@[simp] theorem State.reach_toScreen (s : State) (k : Nat) :
    (s.reach k).toScreen = s.toScreen := rfl

@[simp] theorem State.reach_isolatedPurges (s : State) (k : Nat) :
    (s.reach k).isolatedPurges = s.isolatedPurges := rfl

@[simp] theorem State.reach_leases (s : State) (k : Nat) :
    (s.reach k).leases = s.leases := rfl

@[simp] theorem State.reach_held (s : State) (k : Nat) :
    (s.reach k).held = s.held := rfl

@[simp] theorem State.reach_credits (s : State) (k : Nat) :
    (s.reach k).credits = s.credits := rfl

@[simp] theorem State.reach_lastShare (s : State) (k : Nat) :
    (s.reach k).lastShare = s.lastShare := rfl

@[simp] theorem State.reach_fieldTx (s : State) (k : Nat) :
    (s.reach k).fieldTx = s.fieldTx := rfl

@[simp] theorem State.reach_fieldEnd (s : State) (k : Nat) :
    (s.reach k).fieldEnd = s.fieldEnd := rfl

@[simp] theorem State.reach_entries (s : State) (k : Nat) :
    (s.reach k).entries = s.entries := rfl

@[simp] theorem State.reach_tagCounter (s : State) (k : Nat) :
    (s.reach k).tagCounter = s.tagCounter := rfl

@[simp] theorem State.reach_stations (s : State) (k : Nat) :
    (s.reach k).stations = s.stations := rfl

@[simp] theorem State.reach_outputs (s : State) (k : Nat) :
    (s.reach k).outputs = s.outputs := rfl

@[simp] theorem State.reach_notices (s : State) (k : Nat) :
    (s.reach k).notices = s.notices := rfl

@[simp] theorem State.reach_slots (s : State) (k : Nat) :
    (s.reach k).slots = s.slots := rfl

@[simp] theorem State.reach_session (s : State) (k : Nat) :
    (s.reach k).session = s.session := rfl

@[simp] theorem State.reach_restart (s : State) (k : Nat) :
    (s.reach k).restart = s.restart := rfl

@[simp] theorem State.reach_counters (s : State) (k : Nat) :
    (s.reach k).counters = s.counters := rfl

@[simp] theorem State.reach_fieldCounters (s : State) (k : Nat) :
    (s.reach k).fieldCounters = s.fieldCounters := rfl

@[simp] theorem State.reach_store (s : State) (k : Nat) :
    (s.reach k).store = s.store := rfl

/-! ### State.count -/

@[simp] theorem State.count_pending (s : State) (p : Port) (c : PortCounter) :
    (s.count p c).pending = s.pending := rfl

@[simp] theorem State.count_now (s : State) (p : Port) (c : PortCounter) :
    (s.count p c).now = s.now := rfl

@[simp] theorem State.count_choices (s : State) (p : Port) (c : PortCounter) :
    (s.count p c).choices = s.choices := rfl

@[simp] theorem State.count_supply (s : State) (p : Port) (c : PortCounter) :
    (s.count p c).supply = s.supply := rfl

@[simp] theorem State.count_resetLow (s : State) (p : Port) (c : PortCounter) :
    (s.count p c).resetLow = s.resetLow := rfl

@[simp] theorem State.count_supplyLost (s : State) (p : Port) (c : PortCounter) :
    (s.count p c).supplyLost = s.supplyLost := rfl

@[simp] theorem State.count_phase (s : State) (p : Port) (c : PortCounter) :
    (s.count p c).phase = s.phase := rfl

@[simp] theorem State.count_runningRate (s : State) (p : Port) (c : PortCounter) :
    (s.count p c).runningRate = s.runningRate := rfl

@[simp] theorem State.count_runningGap (s : State) (p : Port) (c : PortCounter) :
    (s.count p c).runningGap = s.runningGap := rfl

@[simp] theorem State.count_rx (s : State) (p : Port) (c : PortCounter) :
    (s.count p c).rx = s.rx := rfl

@[simp] theorem State.count_links (s : State) (p : Port) (c : PortCounter) :
    (s.count p c).links = s.links := rfl

@[simp] theorem State.count_leaseDown (s : State) (p : Port) (c : PortCounter) :
    (s.count p c).leaseDown = s.leaseDown := rfl

@[simp] theorem State.count_sessionDown (s : State) (p : Port) (c : PortCounter) :
    (s.count p c).sessionDown = s.sessionDown := rfl

@[simp] theorem State.count_noticeDown (s : State) (p : Port) (c : PortCounter) :
    (s.count p c).noticeDown = s.noticeDown := rfl

@[simp] theorem State.count_table (s : State) (p : Port) (c : PortCounter) :
    (s.count p c).table = s.table := rfl

@[simp] theorem State.count_lock (s : State) (p : Port) (c : PortCounter) :
    (s.count p c).lock = s.lock := rfl

@[simp] theorem State.count_settings (s : State) (p : Port) (c : PortCounter) :
    (s.count p c).settings = s.settings := rfl

@[simp] theorem State.count_hitRaises (s : State) (p : Port) (c : PortCounter) :
    (s.count p c).hitRaises = s.hitRaises := rfl

@[simp] theorem State.count_mode (s : State) (p : Port) (c : PortCounter) :
    (s.count p c).mode = s.mode := rfl

@[simp] theorem State.count_meters (s : State) (p : Port) (c : PortCounter) :
    (s.count p c).meters = s.meters := rfl

@[simp] theorem State.count_toScreen (s : State) (p : Port) (c : PortCounter) :
    (s.count p c).toScreen = s.toScreen := rfl

@[simp] theorem State.count_isolatedPurges (s : State) (p : Port) (c : PortCounter) :
    (s.count p c).isolatedPurges = s.isolatedPurges := rfl

@[simp] theorem State.count_leases (s : State) (p : Port) (c : PortCounter) :
    (s.count p c).leases = s.leases := rfl

@[simp] theorem State.count_held (s : State) (p : Port) (c : PortCounter) :
    (s.count p c).held = s.held := rfl

@[simp] theorem State.count_credits (s : State) (p : Port) (c : PortCounter) :
    (s.count p c).credits = s.credits := rfl

@[simp] theorem State.count_lastShare (s : State) (p : Port) (c : PortCounter) :
    (s.count p c).lastShare = s.lastShare := rfl

@[simp] theorem State.count_fieldTx (s : State) (p : Port) (c : PortCounter) :
    (s.count p c).fieldTx = s.fieldTx := rfl

@[simp] theorem State.count_fieldEnd (s : State) (p : Port) (c : PortCounter) :
    (s.count p c).fieldEnd = s.fieldEnd := rfl

@[simp] theorem State.count_entries (s : State) (p : Port) (c : PortCounter) :
    (s.count p c).entries = s.entries := rfl

@[simp] theorem State.count_tagCounter (s : State) (p : Port) (c : PortCounter) :
    (s.count p c).tagCounter = s.tagCounter := rfl

@[simp] theorem State.count_stations (s : State) (p : Port) (c : PortCounter) :
    (s.count p c).stations = s.stations := rfl

@[simp] theorem State.count_outputs (s : State) (p : Port) (c : PortCounter) :
    (s.count p c).outputs = s.outputs := rfl

@[simp] theorem State.count_notices (s : State) (p : Port) (c : PortCounter) :
    (s.count p c).notices = s.notices := rfl

@[simp] theorem State.count_slots (s : State) (p : Port) (c : PortCounter) :
    (s.count p c).slots = s.slots := rfl

@[simp] theorem State.count_session (s : State) (p : Port) (c : PortCounter) :
    (s.count p c).session = s.session := rfl

@[simp] theorem State.count_restart (s : State) (p : Port) (c : PortCounter) :
    (s.count p c).restart = s.restart := rfl

@[simp] theorem State.count_counters (s : State) (p : Port) (c : PortCounter) :
    (s.count p c).counters = s.counters.set p ((s.counters.get p).raise c) := rfl

@[simp] theorem State.count_fieldCounters (s : State) (p : Port) (c : PortCounter) :
    (s.count p c).fieldCounters = s.fieldCounters := rfl

@[simp] theorem State.count_store (s : State) (p : Port) (c : PortCounter) :
    (s.count p c).store = s.store := rfl

/-! ### State.countField -/

@[simp] theorem State.countField_pending (s : State) (c : FieldCounter) :
    (s.countField c).pending = s.pending := rfl

@[simp] theorem State.countField_now (s : State) (c : FieldCounter) :
    (s.countField c).now = s.now := rfl

@[simp] theorem State.countField_choices (s : State) (c : FieldCounter) :
    (s.countField c).choices = s.choices := rfl

@[simp] theorem State.countField_supply (s : State) (c : FieldCounter) :
    (s.countField c).supply = s.supply := rfl

@[simp] theorem State.countField_resetLow (s : State) (c : FieldCounter) :
    (s.countField c).resetLow = s.resetLow := rfl

@[simp] theorem State.countField_supplyLost (s : State) (c : FieldCounter) :
    (s.countField c).supplyLost = s.supplyLost := rfl

@[simp] theorem State.countField_phase (s : State) (c : FieldCounter) :
    (s.countField c).phase = s.phase := rfl

@[simp] theorem State.countField_runningRate (s : State) (c : FieldCounter) :
    (s.countField c).runningRate = s.runningRate := rfl

@[simp] theorem State.countField_runningGap (s : State) (c : FieldCounter) :
    (s.countField c).runningGap = s.runningGap := rfl

@[simp] theorem State.countField_rx (s : State) (c : FieldCounter) :
    (s.countField c).rx = s.rx := rfl

@[simp] theorem State.countField_links (s : State) (c : FieldCounter) :
    (s.countField c).links = s.links := rfl

@[simp] theorem State.countField_leaseDown (s : State) (c : FieldCounter) :
    (s.countField c).leaseDown = s.leaseDown := rfl

@[simp] theorem State.countField_sessionDown (s : State) (c : FieldCounter) :
    (s.countField c).sessionDown = s.sessionDown := rfl

@[simp] theorem State.countField_noticeDown (s : State) (c : FieldCounter) :
    (s.countField c).noticeDown = s.noticeDown := rfl

@[simp] theorem State.countField_table (s : State) (c : FieldCounter) :
    (s.countField c).table = s.table := rfl

@[simp] theorem State.countField_lock (s : State) (c : FieldCounter) :
    (s.countField c).lock = s.lock := rfl

@[simp] theorem State.countField_settings (s : State) (c : FieldCounter) :
    (s.countField c).settings = s.settings := rfl

@[simp] theorem State.countField_hitRaises (s : State) (c : FieldCounter) :
    (s.countField c).hitRaises = s.hitRaises := rfl

@[simp] theorem State.countField_mode (s : State) (c : FieldCounter) :
    (s.countField c).mode = s.mode := rfl

@[simp] theorem State.countField_meters (s : State) (c : FieldCounter) :
    (s.countField c).meters = s.meters := rfl

@[simp] theorem State.countField_toScreen (s : State) (c : FieldCounter) :
    (s.countField c).toScreen = s.toScreen := rfl

@[simp] theorem State.countField_isolatedPurges (s : State) (c : FieldCounter) :
    (s.countField c).isolatedPurges = s.isolatedPurges := rfl

@[simp] theorem State.countField_leases (s : State) (c : FieldCounter) :
    (s.countField c).leases = s.leases := rfl

@[simp] theorem State.countField_held (s : State) (c : FieldCounter) :
    (s.countField c).held = s.held := rfl

@[simp] theorem State.countField_credits (s : State) (c : FieldCounter) :
    (s.countField c).credits = s.credits := rfl

@[simp] theorem State.countField_lastShare (s : State) (c : FieldCounter) :
    (s.countField c).lastShare = s.lastShare := rfl

@[simp] theorem State.countField_fieldTx (s : State) (c : FieldCounter) :
    (s.countField c).fieldTx = s.fieldTx := rfl

@[simp] theorem State.countField_fieldEnd (s : State) (c : FieldCounter) :
    (s.countField c).fieldEnd = s.fieldEnd := rfl

@[simp] theorem State.countField_entries (s : State) (c : FieldCounter) :
    (s.countField c).entries = s.entries := rfl

@[simp] theorem State.countField_tagCounter (s : State) (c : FieldCounter) :
    (s.countField c).tagCounter = s.tagCounter := rfl

@[simp] theorem State.countField_stations (s : State) (c : FieldCounter) :
    (s.countField c).stations = s.stations := rfl

@[simp] theorem State.countField_outputs (s : State) (c : FieldCounter) :
    (s.countField c).outputs = s.outputs := rfl

@[simp] theorem State.countField_notices (s : State) (c : FieldCounter) :
    (s.countField c).notices = s.notices := rfl

@[simp] theorem State.countField_slots (s : State) (c : FieldCounter) :
    (s.countField c).slots = s.slots := rfl

@[simp] theorem State.countField_session (s : State) (c : FieldCounter) :
    (s.countField c).session = s.session := rfl

@[simp] theorem State.countField_restart (s : State) (c : FieldCounter) :
    (s.countField c).restart = s.restart := rfl

@[simp] theorem State.countField_counters (s : State) (c : FieldCounter) :
    (s.countField c).counters = s.counters := rfl

@[simp] theorem State.countField_fieldCounters (s : State) (c : FieldCounter) :
    (s.countField c).fieldCounters = s.fieldCounters.raise c := rfl

@[simp] theorem State.countField_store (s : State) (c : FieldCounter) :
    (s.countField c).store = s.store := rfl

/-! ### State.freeSlot -/

@[simp] theorem State.freeSlot_pending (s : State) :
    (s.freeSlot).pending = s.pending := rfl

@[simp] theorem State.freeSlot_now (s : State) :
    (s.freeSlot).now = s.now := rfl

@[simp] theorem State.freeSlot_choices (s : State) :
    (s.freeSlot).choices = s.choices := rfl

@[simp] theorem State.freeSlot_supply (s : State) :
    (s.freeSlot).supply = s.supply := rfl

@[simp] theorem State.freeSlot_resetLow (s : State) :
    (s.freeSlot).resetLow = s.resetLow := rfl

@[simp] theorem State.freeSlot_supplyLost (s : State) :
    (s.freeSlot).supplyLost = s.supplyLost := rfl

@[simp] theorem State.freeSlot_phase (s : State) :
    (s.freeSlot).phase = s.phase := rfl

@[simp] theorem State.freeSlot_runningRate (s : State) :
    (s.freeSlot).runningRate = s.runningRate := rfl

@[simp] theorem State.freeSlot_runningGap (s : State) :
    (s.freeSlot).runningGap = s.runningGap := rfl

@[simp] theorem State.freeSlot_rx (s : State) :
    (s.freeSlot).rx = s.rx := rfl

@[simp] theorem State.freeSlot_links (s : State) :
    (s.freeSlot).links = s.links := rfl

@[simp] theorem State.freeSlot_leaseDown (s : State) :
    (s.freeSlot).leaseDown = s.leaseDown := rfl

@[simp] theorem State.freeSlot_sessionDown (s : State) :
    (s.freeSlot).sessionDown = s.sessionDown := rfl

@[simp] theorem State.freeSlot_noticeDown (s : State) :
    (s.freeSlot).noticeDown = s.noticeDown := rfl

@[simp] theorem State.freeSlot_table (s : State) :
    (s.freeSlot).table = s.table := rfl

@[simp] theorem State.freeSlot_lock (s : State) :
    (s.freeSlot).lock = s.lock := rfl

@[simp] theorem State.freeSlot_settings (s : State) :
    (s.freeSlot).settings = s.settings := rfl

@[simp] theorem State.freeSlot_hitRaises (s : State) :
    (s.freeSlot).hitRaises = s.hitRaises := rfl

@[simp] theorem State.freeSlot_mode (s : State) :
    (s.freeSlot).mode = s.mode := rfl

@[simp] theorem State.freeSlot_meters (s : State) :
    (s.freeSlot).meters = s.meters := rfl

@[simp] theorem State.freeSlot_toScreen (s : State) :
    (s.freeSlot).toScreen = s.toScreen := rfl

@[simp] theorem State.freeSlot_isolatedPurges (s : State) :
    (s.freeSlot).isolatedPurges = s.isolatedPurges := rfl

@[simp] theorem State.freeSlot_leases (s : State) :
    (s.freeSlot).leases = s.leases := rfl

@[simp] theorem State.freeSlot_held (s : State) :
    (s.freeSlot).held = s.held := rfl

@[simp] theorem State.freeSlot_credits (s : State) :
    (s.freeSlot).credits = s.credits := rfl

@[simp] theorem State.freeSlot_lastShare (s : State) :
    (s.freeSlot).lastShare = s.lastShare := rfl

@[simp] theorem State.freeSlot_fieldTx (s : State) :
    (s.freeSlot).fieldTx = s.fieldTx := rfl

@[simp] theorem State.freeSlot_fieldEnd (s : State) :
    (s.freeSlot).fieldEnd = s.fieldEnd := rfl

@[simp] theorem State.freeSlot_entries (s : State) :
    (s.freeSlot).entries = s.entries := rfl

@[simp] theorem State.freeSlot_tagCounter (s : State) :
    (s.freeSlot).tagCounter = s.tagCounter := rfl

@[simp] theorem State.freeSlot_stations (s : State) :
    (s.freeSlot).stations = s.stations := rfl

@[simp] theorem State.freeSlot_outputs (s : State) :
    (s.freeSlot).outputs = s.outputs := rfl

@[simp] theorem State.freeSlot_notices (s : State) :
    (s.freeSlot).notices = s.notices := rfl

@[simp] theorem State.freeSlot_slots (s : State) :
    (s.freeSlot).slots = s.slots.tail := rfl

@[simp] theorem State.freeSlot_session (s : State) :
    (s.freeSlot).session = s.session := rfl

@[simp] theorem State.freeSlot_restart (s : State) :
    (s.freeSlot).restart = s.restart := rfl

@[simp] theorem State.freeSlot_counters (s : State) :
    (s.freeSlot).counters = s.counters := rfl

@[simp] theorem State.freeSlot_fieldCounters (s : State) :
    (s.freeSlot).fieldCounters = s.fieldCounters := rfl

@[simp] theorem State.freeSlot_store (s : State) :
    (s.freeSlot).store = s.store := rfl

/-! ### State.dropHeld -/

@[simp] theorem State.dropHeld_pending (s : State) (f : HeldReq → Bool) :
    (s.dropHeld f).pending = s.pending := rfl

@[simp] theorem State.dropHeld_now (s : State) (f : HeldReq → Bool) :
    (s.dropHeld f).now = s.now := rfl

@[simp] theorem State.dropHeld_choices (s : State) (f : HeldReq → Bool) :
    (s.dropHeld f).choices = s.choices := rfl

@[simp] theorem State.dropHeld_supply (s : State) (f : HeldReq → Bool) :
    (s.dropHeld f).supply = s.supply := rfl

@[simp] theorem State.dropHeld_resetLow (s : State) (f : HeldReq → Bool) :
    (s.dropHeld f).resetLow = s.resetLow := rfl

@[simp] theorem State.dropHeld_supplyLost (s : State) (f : HeldReq → Bool) :
    (s.dropHeld f).supplyLost = s.supplyLost := rfl

@[simp] theorem State.dropHeld_phase (s : State) (f : HeldReq → Bool) :
    (s.dropHeld f).phase = s.phase := rfl

@[simp] theorem State.dropHeld_runningRate (s : State) (f : HeldReq → Bool) :
    (s.dropHeld f).runningRate = s.runningRate := rfl

@[simp] theorem State.dropHeld_runningGap (s : State) (f : HeldReq → Bool) :
    (s.dropHeld f).runningGap = s.runningGap := rfl

@[simp] theorem State.dropHeld_rx (s : State) (f : HeldReq → Bool) :
    (s.dropHeld f).rx = s.rx := rfl

@[simp] theorem State.dropHeld_links (s : State) (f : HeldReq → Bool) :
    (s.dropHeld f).links = s.links := rfl

@[simp] theorem State.dropHeld_leaseDown (s : State) (f : HeldReq → Bool) :
    (s.dropHeld f).leaseDown = s.leaseDown := rfl

@[simp] theorem State.dropHeld_sessionDown (s : State) (f : HeldReq → Bool) :
    (s.dropHeld f).sessionDown = s.sessionDown := rfl

@[simp] theorem State.dropHeld_noticeDown (s : State) (f : HeldReq → Bool) :
    (s.dropHeld f).noticeDown = s.noticeDown := rfl

@[simp] theorem State.dropHeld_table (s : State) (f : HeldReq → Bool) :
    (s.dropHeld f).table = s.table := rfl

@[simp] theorem State.dropHeld_lock (s : State) (f : HeldReq → Bool) :
    (s.dropHeld f).lock = s.lock := rfl

@[simp] theorem State.dropHeld_settings (s : State) (f : HeldReq → Bool) :
    (s.dropHeld f).settings = s.settings := rfl

@[simp] theorem State.dropHeld_hitRaises (s : State) (f : HeldReq → Bool) :
    (s.dropHeld f).hitRaises = s.hitRaises := rfl

@[simp] theorem State.dropHeld_mode (s : State) (f : HeldReq → Bool) :
    (s.dropHeld f).mode = s.mode := rfl

@[simp] theorem State.dropHeld_meters (s : State) (f : HeldReq → Bool) :
    (s.dropHeld f).meters = s.meters := rfl

@[simp] theorem State.dropHeld_toScreen (s : State) (f : HeldReq → Bool) :
    (s.dropHeld f).toScreen = s.toScreen := rfl

@[simp] theorem State.dropHeld_isolatedPurges (s : State) (f : HeldReq → Bool) :
    (s.dropHeld f).isolatedPurges = s.isolatedPurges := rfl

@[simp] theorem State.dropHeld_leases (s : State) (f : HeldReq → Bool) :
    (s.dropHeld f).leases = s.leases := rfl

@[simp] theorem State.dropHeld_held (s : State) (f : HeldReq → Bool) :
    (s.dropHeld f).held = s.held.filter fun r => !f r := rfl

@[simp] theorem State.dropHeld_credits (s : State) (f : HeldReq → Bool) :
    (s.dropHeld f).credits = s.credits := rfl

@[simp] theorem State.dropHeld_lastShare (s : State) (f : HeldReq → Bool) :
    (s.dropHeld f).lastShare = s.lastShare := rfl

@[simp] theorem State.dropHeld_fieldTx (s : State) (f : HeldReq → Bool) :
    (s.dropHeld f).fieldTx = s.fieldTx := rfl

@[simp] theorem State.dropHeld_fieldEnd (s : State) (f : HeldReq → Bool) :
    (s.dropHeld f).fieldEnd = s.fieldEnd := rfl

@[simp] theorem State.dropHeld_entries (s : State) (f : HeldReq → Bool) :
    (s.dropHeld f).entries = s.entries := rfl

@[simp] theorem State.dropHeld_tagCounter (s : State) (f : HeldReq → Bool) :
    (s.dropHeld f).tagCounter = s.tagCounter := rfl

@[simp] theorem State.dropHeld_stations (s : State) (f : HeldReq → Bool) :
    (s.dropHeld f).stations = s.stations := rfl

@[simp] theorem State.dropHeld_outputs (s : State) (f : HeldReq → Bool) :
    (s.dropHeld f).outputs = s.outputs := rfl

@[simp] theorem State.dropHeld_notices (s : State) (f : HeldReq → Bool) :
    (s.dropHeld f).notices = s.notices := rfl

@[simp] theorem State.dropHeld_slots (s : State) (f : HeldReq → Bool) :
    (s.dropHeld f).slots = s.slots := rfl

@[simp] theorem State.dropHeld_session (s : State) (f : HeldReq → Bool) :
    (s.dropHeld f).session = s.session := rfl

@[simp] theorem State.dropHeld_restart (s : State) (f : HeldReq → Bool) :
    (s.dropHeld f).restart = s.restart := rfl

@[simp] theorem State.dropHeld_counters (s : State) (f : HeldReq → Bool) :
    (s.dropHeld f).counters = s.counters := rfl

@[simp] theorem State.dropHeld_fieldCounters (s : State) (f : HeldReq → Bool) :
    (s.dropHeld f).fieldCounters = s.fieldCounters := rfl

@[simp] theorem State.dropHeld_store (s : State) (f : HeldReq → Bool) :
    (s.dropHeld f).store = s.store := rfl

/-! ### State.answer -/

@[simp] theorem State.answer_pending (s : State) (p : Port) (run : List Telegram) :
    (s.answer p run).pending = s.pending := rfl

@[simp] theorem State.answer_now (s : State) (p : Port) (run : List Telegram) :
    (s.answer p run).now = s.now := rfl

@[simp] theorem State.answer_choices (s : State) (p : Port) (run : List Telegram) :
    (s.answer p run).choices = s.choices := rfl

@[simp] theorem State.answer_supply (s : State) (p : Port) (run : List Telegram) :
    (s.answer p run).supply = s.supply := rfl

@[simp] theorem State.answer_resetLow (s : State) (p : Port) (run : List Telegram) :
    (s.answer p run).resetLow = s.resetLow := rfl

@[simp] theorem State.answer_supplyLost (s : State) (p : Port) (run : List Telegram) :
    (s.answer p run).supplyLost = s.supplyLost := rfl

@[simp] theorem State.answer_phase (s : State) (p : Port) (run : List Telegram) :
    (s.answer p run).phase = s.phase := rfl

@[simp] theorem State.answer_runningRate (s : State) (p : Port) (run : List Telegram) :
    (s.answer p run).runningRate = s.runningRate := rfl

@[simp] theorem State.answer_runningGap (s : State) (p : Port) (run : List Telegram) :
    (s.answer p run).runningGap = s.runningGap := rfl

@[simp] theorem State.answer_rx (s : State) (p : Port) (run : List Telegram) :
    (s.answer p run).rx = s.rx := rfl

@[simp] theorem State.answer_links (s : State) (p : Port) (run : List Telegram) :
    (s.answer p run).links = s.links := rfl

@[simp] theorem State.answer_leaseDown (s : State) (p : Port) (run : List Telegram) :
    (s.answer p run).leaseDown = s.leaseDown := rfl

@[simp] theorem State.answer_sessionDown (s : State) (p : Port) (run : List Telegram) :
    (s.answer p run).sessionDown = s.sessionDown := rfl

@[simp] theorem State.answer_noticeDown (s : State) (p : Port) (run : List Telegram) :
    (s.answer p run).noticeDown = s.noticeDown := rfl

@[simp] theorem State.answer_table (s : State) (p : Port) (run : List Telegram) :
    (s.answer p run).table = s.table := rfl

@[simp] theorem State.answer_lock (s : State) (p : Port) (run : List Telegram) :
    (s.answer p run).lock = s.lock := rfl

@[simp] theorem State.answer_settings (s : State) (p : Port) (run : List Telegram) :
    (s.answer p run).settings = s.settings := rfl

@[simp] theorem State.answer_hitRaises (s : State) (p : Port) (run : List Telegram) :
    (s.answer p run).hitRaises = s.hitRaises := rfl

@[simp] theorem State.answer_mode (s : State) (p : Port) (run : List Telegram) :
    (s.answer p run).mode = s.mode := rfl

@[simp] theorem State.answer_meters (s : State) (p : Port) (run : List Telegram) :
    (s.answer p run).meters = s.meters := rfl

@[simp] theorem State.answer_toScreen (s : State) (p : Port) (run : List Telegram) :
    (s.answer p run).toScreen = s.toScreen := rfl

@[simp] theorem State.answer_isolatedPurges (s : State) (p : Port) (run : List Telegram) :
    (s.answer p run).isolatedPurges = s.isolatedPurges := rfl

@[simp] theorem State.answer_leases (s : State) (p : Port) (run : List Telegram) :
    (s.answer p run).leases = s.leases := rfl

@[simp] theorem State.answer_held (s : State) (p : Port) (run : List Telegram) :
    (s.answer p run).held = s.held := rfl

@[simp] theorem State.answer_credits (s : State) (p : Port) (run : List Telegram) :
    (s.answer p run).credits = s.credits := rfl

@[simp] theorem State.answer_lastShare (s : State) (p : Port) (run : List Telegram) :
    (s.answer p run).lastShare = s.lastShare := rfl

@[simp] theorem State.answer_fieldTx (s : State) (p : Port) (run : List Telegram) :
    (s.answer p run).fieldTx = s.fieldTx := rfl

@[simp] theorem State.answer_fieldEnd (s : State) (p : Port) (run : List Telegram) :
    (s.answer p run).fieldEnd = s.fieldEnd := rfl

@[simp] theorem State.answer_entries (s : State) (p : Port) (run : List Telegram) :
    (s.answer p run).entries = s.entries := rfl

@[simp] theorem State.answer_tagCounter (s : State) (p : Port) (run : List Telegram) :
    (s.answer p run).tagCounter = s.tagCounter := rfl

@[simp] theorem State.answer_stations (s : State) (p : Port) (run : List Telegram) :
    (s.answer p run).stations = s.stations := rfl

@[simp] theorem State.answer_outputs (s : State) (p : Port) (run : List Telegram) :
    (s.answer p run).outputs = s.outputs.set p ((s.outputs.get p).place s.now run) := rfl

@[simp] theorem State.answer_notices (s : State) (p : Port) (run : List Telegram) :
    (s.answer p run).notices = s.notices := rfl

@[simp] theorem State.answer_slots (s : State) (p : Port) (run : List Telegram) :
    (s.answer p run).slots = s.slots := rfl

@[simp] theorem State.answer_session (s : State) (p : Port) (run : List Telegram) :
    (s.answer p run).session = s.session := rfl

@[simp] theorem State.answer_restart (s : State) (p : Port) (run : List Telegram) :
    (s.answer p run).restart = s.restart := rfl

@[simp] theorem State.answer_counters (s : State) (p : Port) (run : List Telegram) :
    (s.answer p run).counters = s.counters := rfl

@[simp] theorem State.answer_fieldCounters (s : State) (p : Port) (run : List Telegram) :
    (s.answer p run).fieldCounters = s.fieldCounters := rfl

@[simp] theorem State.answer_store (s : State) (p : Port) (run : List Telegram) :
    (s.answer p run).store = s.store := rfl

/-! ### State.reserve -/

@[simp] theorem State.reserve_pending (s : State) (p : Port) :
    (s.reserve p).pending = s.pending := rfl

@[simp] theorem State.reserve_now (s : State) (p : Port) :
    (s.reserve p).now = s.now := rfl

@[simp] theorem State.reserve_choices (s : State) (p : Port) :
    (s.reserve p).choices = s.choices := rfl

@[simp] theorem State.reserve_supply (s : State) (p : Port) :
    (s.reserve p).supply = s.supply := rfl

@[simp] theorem State.reserve_resetLow (s : State) (p : Port) :
    (s.reserve p).resetLow = s.resetLow := rfl

@[simp] theorem State.reserve_supplyLost (s : State) (p : Port) :
    (s.reserve p).supplyLost = s.supplyLost := rfl

@[simp] theorem State.reserve_phase (s : State) (p : Port) :
    (s.reserve p).phase = s.phase := rfl

@[simp] theorem State.reserve_runningRate (s : State) (p : Port) :
    (s.reserve p).runningRate = s.runningRate := rfl

@[simp] theorem State.reserve_runningGap (s : State) (p : Port) :
    (s.reserve p).runningGap = s.runningGap := rfl

@[simp] theorem State.reserve_rx (s : State) (p : Port) :
    (s.reserve p).rx = s.rx := rfl

@[simp] theorem State.reserve_links (s : State) (p : Port) :
    (s.reserve p).links = s.links := rfl

@[simp] theorem State.reserve_leaseDown (s : State) (p : Port) :
    (s.reserve p).leaseDown = s.leaseDown := rfl

@[simp] theorem State.reserve_sessionDown (s : State) (p : Port) :
    (s.reserve p).sessionDown = s.sessionDown := rfl

@[simp] theorem State.reserve_noticeDown (s : State) (p : Port) :
    (s.reserve p).noticeDown = s.noticeDown := rfl

@[simp] theorem State.reserve_table (s : State) (p : Port) :
    (s.reserve p).table = s.table := rfl

@[simp] theorem State.reserve_lock (s : State) (p : Port) :
    (s.reserve p).lock = s.lock := rfl

@[simp] theorem State.reserve_settings (s : State) (p : Port) :
    (s.reserve p).settings = s.settings := rfl

@[simp] theorem State.reserve_hitRaises (s : State) (p : Port) :
    (s.reserve p).hitRaises = s.hitRaises := rfl

@[simp] theorem State.reserve_mode (s : State) (p : Port) :
    (s.reserve p).mode = s.mode := rfl

@[simp] theorem State.reserve_meters (s : State) (p : Port) :
    (s.reserve p).meters = s.meters := rfl

@[simp] theorem State.reserve_toScreen (s : State) (p : Port) :
    (s.reserve p).toScreen = s.toScreen := rfl

@[simp] theorem State.reserve_isolatedPurges (s : State) (p : Port) :
    (s.reserve p).isolatedPurges = s.isolatedPurges := rfl

@[simp] theorem State.reserve_leases (s : State) (p : Port) :
    (s.reserve p).leases = s.leases := rfl

@[simp] theorem State.reserve_held (s : State) (p : Port) :
    (s.reserve p).held = s.held := rfl

@[simp] theorem State.reserve_credits (s : State) (p : Port) :
    (s.reserve p).credits = s.credits := rfl

@[simp] theorem State.reserve_lastShare (s : State) (p : Port) :
    (s.reserve p).lastShare = s.lastShare := rfl

@[simp] theorem State.reserve_fieldTx (s : State) (p : Port) :
    (s.reserve p).fieldTx = s.fieldTx := rfl

@[simp] theorem State.reserve_fieldEnd (s : State) (p : Port) :
    (s.reserve p).fieldEnd = s.fieldEnd := rfl

@[simp] theorem State.reserve_entries (s : State) (p : Port) :
    (s.reserve p).entries = s.entries := rfl

@[simp] theorem State.reserve_tagCounter (s : State) (p : Port) :
    (s.reserve p).tagCounter = s.tagCounter := rfl

@[simp] theorem State.reserve_stations (s : State) (p : Port) :
    (s.reserve p).stations = s.stations := rfl

@[simp] theorem State.reserve_outputs (s : State) (p : Port) :
    (s.reserve p).outputs = s.outputs.set p { s.outputs.get p with reserved := (s.outputs.get p).reserved + 1 } := rfl

@[simp] theorem State.reserve_notices (s : State) (p : Port) :
    (s.reserve p).notices = s.notices := rfl

@[simp] theorem State.reserve_slots (s : State) (p : Port) :
    (s.reserve p).slots = s.slots := rfl

@[simp] theorem State.reserve_session (s : State) (p : Port) :
    (s.reserve p).session = s.session := rfl

@[simp] theorem State.reserve_restart (s : State) (p : Port) :
    (s.reserve p).restart = s.restart := rfl

@[simp] theorem State.reserve_counters (s : State) (p : Port) :
    (s.reserve p).counters = s.counters := rfl

@[simp] theorem State.reserve_fieldCounters (s : State) (p : Port) :
    (s.reserve p).fieldCounters = s.fieldCounters := rfl

@[simp] theorem State.reserve_store (s : State) (p : Port) :
    (s.reserve p).store = s.store := rfl

/-! ### State.handOn -/

@[simp] theorem State.handOn_pending (s : State) (p : Port) (t : Telegram) :
    (s.handOn p t).pending = s.pending := rfl

@[simp] theorem State.handOn_now (s : State) (p : Port) (t : Telegram) :
    (s.handOn p t).now = s.now := rfl

@[simp] theorem State.handOn_choices (s : State) (p : Port) (t : Telegram) :
    (s.handOn p t).choices = s.choices := rfl

@[simp] theorem State.handOn_supply (s : State) (p : Port) (t : Telegram) :
    (s.handOn p t).supply = s.supply := rfl

@[simp] theorem State.handOn_resetLow (s : State) (p : Port) (t : Telegram) :
    (s.handOn p t).resetLow = s.resetLow := rfl

@[simp] theorem State.handOn_supplyLost (s : State) (p : Port) (t : Telegram) :
    (s.handOn p t).supplyLost = s.supplyLost := rfl

@[simp] theorem State.handOn_phase (s : State) (p : Port) (t : Telegram) :
    (s.handOn p t).phase = s.phase := rfl

@[simp] theorem State.handOn_runningRate (s : State) (p : Port) (t : Telegram) :
    (s.handOn p t).runningRate = s.runningRate := rfl

@[simp] theorem State.handOn_runningGap (s : State) (p : Port) (t : Telegram) :
    (s.handOn p t).runningGap = s.runningGap := rfl

@[simp] theorem State.handOn_rx (s : State) (p : Port) (t : Telegram) :
    (s.handOn p t).rx = s.rx := rfl

@[simp] theorem State.handOn_links (s : State) (p : Port) (t : Telegram) :
    (s.handOn p t).links = s.links := rfl

@[simp] theorem State.handOn_leaseDown (s : State) (p : Port) (t : Telegram) :
    (s.handOn p t).leaseDown = s.leaseDown := rfl

@[simp] theorem State.handOn_sessionDown (s : State) (p : Port) (t : Telegram) :
    (s.handOn p t).sessionDown = s.sessionDown := rfl

@[simp] theorem State.handOn_noticeDown (s : State) (p : Port) (t : Telegram) :
    (s.handOn p t).noticeDown = s.noticeDown := rfl

@[simp] theorem State.handOn_table (s : State) (p : Port) (t : Telegram) :
    (s.handOn p t).table = s.table := rfl

@[simp] theorem State.handOn_lock (s : State) (p : Port) (t : Telegram) :
    (s.handOn p t).lock = s.lock := rfl

@[simp] theorem State.handOn_settings (s : State) (p : Port) (t : Telegram) :
    (s.handOn p t).settings = s.settings := rfl

@[simp] theorem State.handOn_hitRaises (s : State) (p : Port) (t : Telegram) :
    (s.handOn p t).hitRaises = s.hitRaises := rfl

@[simp] theorem State.handOn_mode (s : State) (p : Port) (t : Telegram) :
    (s.handOn p t).mode = s.mode := rfl

@[simp] theorem State.handOn_meters (s : State) (p : Port) (t : Telegram) :
    (s.handOn p t).meters = s.meters := rfl

@[simp] theorem State.handOn_toScreen (s : State) (p : Port) (t : Telegram) :
    (s.handOn p t).toScreen = s.toScreen := rfl

@[simp] theorem State.handOn_isolatedPurges (s : State) (p : Port) (t : Telegram) :
    (s.handOn p t).isolatedPurges = s.isolatedPurges := rfl

@[simp] theorem State.handOn_leases (s : State) (p : Port) (t : Telegram) :
    (s.handOn p t).leases = s.leases := rfl

@[simp] theorem State.handOn_held (s : State) (p : Port) (t : Telegram) :
    (s.handOn p t).held = s.held := rfl

@[simp] theorem State.handOn_credits (s : State) (p : Port) (t : Telegram) :
    (s.handOn p t).credits = s.credits := rfl

@[simp] theorem State.handOn_lastShare (s : State) (p : Port) (t : Telegram) :
    (s.handOn p t).lastShare = s.lastShare := rfl

@[simp] theorem State.handOn_fieldTx (s : State) (p : Port) (t : Telegram) :
    (s.handOn p t).fieldTx = s.fieldTx := rfl

@[simp] theorem State.handOn_fieldEnd (s : State) (p : Port) (t : Telegram) :
    (s.handOn p t).fieldEnd = s.fieldEnd := rfl

@[simp] theorem State.handOn_entries (s : State) (p : Port) (t : Telegram) :
    (s.handOn p t).entries = s.entries := rfl

@[simp] theorem State.handOn_tagCounter (s : State) (p : Port) (t : Telegram) :
    (s.handOn p t).tagCounter = s.tagCounter := rfl

@[simp] theorem State.handOn_stations (s : State) (p : Port) (t : Telegram) :
    (s.handOn p t).stations = s.stations := rfl

@[simp] theorem State.handOn_outputs (s : State) (p : Port) (t : Telegram) :
    (s.handOn p t).outputs = s.outputs.set p { s.outputs.get p with handed := (s.outputs.get p).handed ++ [t] } := rfl

@[simp] theorem State.handOn_notices (s : State) (p : Port) (t : Telegram) :
    (s.handOn p t).notices = s.notices := rfl

@[simp] theorem State.handOn_slots (s : State) (p : Port) (t : Telegram) :
    (s.handOn p t).slots = s.slots := rfl

@[simp] theorem State.handOn_session (s : State) (p : Port) (t : Telegram) :
    (s.handOn p t).session = s.session := rfl

@[simp] theorem State.handOn_restart (s : State) (p : Port) (t : Telegram) :
    (s.handOn p t).restart = s.restart := rfl

@[simp] theorem State.handOn_counters (s : State) (p : Port) (t : Telegram) :
    (s.handOn p t).counters = s.counters := rfl

@[simp] theorem State.handOn_fieldCounters (s : State) (p : Port) (t : Telegram) :
    (s.handOn p t).fieldCounters = s.fieldCounters := rfl

@[simp] theorem State.handOn_store (s : State) (p : Port) (t : Telegram) :
    (s.handOn p t).store = s.store := rfl

/-! ### State.handBack -/

@[simp] theorem State.handBack_pending (s : State) (p : Port) :
    (s.handBack p).pending = s.pending := rfl

@[simp] theorem State.handBack_now (s : State) (p : Port) :
    (s.handBack p).now = s.now := rfl

@[simp] theorem State.handBack_choices (s : State) (p : Port) :
    (s.handBack p).choices = s.choices := rfl

@[simp] theorem State.handBack_supply (s : State) (p : Port) :
    (s.handBack p).supply = s.supply := rfl

@[simp] theorem State.handBack_resetLow (s : State) (p : Port) :
    (s.handBack p).resetLow = s.resetLow := rfl

@[simp] theorem State.handBack_supplyLost (s : State) (p : Port) :
    (s.handBack p).supplyLost = s.supplyLost := rfl

@[simp] theorem State.handBack_phase (s : State) (p : Port) :
    (s.handBack p).phase = s.phase := rfl

@[simp] theorem State.handBack_runningRate (s : State) (p : Port) :
    (s.handBack p).runningRate = s.runningRate := rfl

@[simp] theorem State.handBack_runningGap (s : State) (p : Port) :
    (s.handBack p).runningGap = s.runningGap := rfl

@[simp] theorem State.handBack_rx (s : State) (p : Port) :
    (s.handBack p).rx = s.rx := rfl

@[simp] theorem State.handBack_links (s : State) (p : Port) :
    (s.handBack p).links = s.links := rfl

@[simp] theorem State.handBack_leaseDown (s : State) (p : Port) :
    (s.handBack p).leaseDown = s.leaseDown := rfl

@[simp] theorem State.handBack_sessionDown (s : State) (p : Port) :
    (s.handBack p).sessionDown = s.sessionDown := rfl

@[simp] theorem State.handBack_noticeDown (s : State) (p : Port) :
    (s.handBack p).noticeDown = s.noticeDown := rfl

@[simp] theorem State.handBack_table (s : State) (p : Port) :
    (s.handBack p).table = s.table := rfl

@[simp] theorem State.handBack_lock (s : State) (p : Port) :
    (s.handBack p).lock = s.lock := rfl

@[simp] theorem State.handBack_settings (s : State) (p : Port) :
    (s.handBack p).settings = s.settings := rfl

@[simp] theorem State.handBack_hitRaises (s : State) (p : Port) :
    (s.handBack p).hitRaises = s.hitRaises := rfl

@[simp] theorem State.handBack_mode (s : State) (p : Port) :
    (s.handBack p).mode = s.mode := rfl

@[simp] theorem State.handBack_meters (s : State) (p : Port) :
    (s.handBack p).meters = s.meters := rfl

@[simp] theorem State.handBack_toScreen (s : State) (p : Port) :
    (s.handBack p).toScreen = s.toScreen := rfl

@[simp] theorem State.handBack_isolatedPurges (s : State) (p : Port) :
    (s.handBack p).isolatedPurges = s.isolatedPurges := rfl

@[simp] theorem State.handBack_leases (s : State) (p : Port) :
    (s.handBack p).leases = s.leases := rfl

@[simp] theorem State.handBack_held (s : State) (p : Port) :
    (s.handBack p).held = s.held := rfl

@[simp] theorem State.handBack_credits (s : State) (p : Port) :
    (s.handBack p).credits = s.credits := rfl

@[simp] theorem State.handBack_lastShare (s : State) (p : Port) :
    (s.handBack p).lastShare = s.lastShare := rfl

@[simp] theorem State.handBack_fieldTx (s : State) (p : Port) :
    (s.handBack p).fieldTx = s.fieldTx := rfl

@[simp] theorem State.handBack_fieldEnd (s : State) (p : Port) :
    (s.handBack p).fieldEnd = s.fieldEnd := rfl

@[simp] theorem State.handBack_entries (s : State) (p : Port) :
    (s.handBack p).entries = s.entries := rfl

@[simp] theorem State.handBack_tagCounter (s : State) (p : Port) :
    (s.handBack p).tagCounter = s.tagCounter := rfl

@[simp] theorem State.handBack_stations (s : State) (p : Port) :
    (s.handBack p).stations = s.stations := rfl

@[simp] theorem State.handBack_outputs (s : State) (p : Port) :
    (s.handBack p).outputs = s.outputs.set p { s.outputs.get p with handedBack := (s.outputs.get p).handedBack + 1 } := rfl

@[simp] theorem State.handBack_notices (s : State) (p : Port) :
    (s.handBack p).notices = s.notices := rfl

@[simp] theorem State.handBack_slots (s : State) (p : Port) :
    (s.handBack p).slots = s.slots := rfl

@[simp] theorem State.handBack_session (s : State) (p : Port) :
    (s.handBack p).session = s.session := rfl

@[simp] theorem State.handBack_restart (s : State) (p : Port) :
    (s.handBack p).restart = s.restart := rfl

@[simp] theorem State.handBack_counters (s : State) (p : Port) :
    (s.handBack p).counters = s.counters := rfl

@[simp] theorem State.handBack_fieldCounters (s : State) (p : Port) :
    (s.handBack p).fieldCounters = s.fieldCounters := rfl

@[simp] theorem State.handBack_store (s : State) (p : Port) :
    (s.handBack p).store = s.store := rfl

/-! ### State.startRepeat -/

@[simp] theorem State.startRepeat_pending (s : State) (p : Port) :
    (s.startRepeat p).pending = s.pending := rfl

@[simp] theorem State.startRepeat_now (s : State) (p : Port) :
    (s.startRepeat p).now = s.now := rfl

@[simp] theorem State.startRepeat_choices (s : State) (p : Port) :
    (s.startRepeat p).choices = s.choices := rfl

@[simp] theorem State.startRepeat_supply (s : State) (p : Port) :
    (s.startRepeat p).supply = s.supply := rfl

@[simp] theorem State.startRepeat_resetLow (s : State) (p : Port) :
    (s.startRepeat p).resetLow = s.resetLow := rfl

@[simp] theorem State.startRepeat_supplyLost (s : State) (p : Port) :
    (s.startRepeat p).supplyLost = s.supplyLost := rfl

@[simp] theorem State.startRepeat_phase (s : State) (p : Port) :
    (s.startRepeat p).phase = s.phase := rfl

@[simp] theorem State.startRepeat_runningRate (s : State) (p : Port) :
    (s.startRepeat p).runningRate = s.runningRate := rfl

@[simp] theorem State.startRepeat_runningGap (s : State) (p : Port) :
    (s.startRepeat p).runningGap = s.runningGap := rfl

@[simp] theorem State.startRepeat_rx (s : State) (p : Port) :
    (s.startRepeat p).rx = s.rx := rfl

@[simp] theorem State.startRepeat_links (s : State) (p : Port) :
    (s.startRepeat p).links = s.links := rfl

@[simp] theorem State.startRepeat_leaseDown (s : State) (p : Port) :
    (s.startRepeat p).leaseDown = s.leaseDown := rfl

@[simp] theorem State.startRepeat_sessionDown (s : State) (p : Port) :
    (s.startRepeat p).sessionDown = s.sessionDown := rfl

@[simp] theorem State.startRepeat_noticeDown (s : State) (p : Port) :
    (s.startRepeat p).noticeDown = s.noticeDown := rfl

@[simp] theorem State.startRepeat_table (s : State) (p : Port) :
    (s.startRepeat p).table = s.table := rfl

@[simp] theorem State.startRepeat_lock (s : State) (p : Port) :
    (s.startRepeat p).lock = s.lock := rfl

@[simp] theorem State.startRepeat_settings (s : State) (p : Port) :
    (s.startRepeat p).settings = s.settings := rfl

@[simp] theorem State.startRepeat_hitRaises (s : State) (p : Port) :
    (s.startRepeat p).hitRaises = s.hitRaises := rfl

@[simp] theorem State.startRepeat_mode (s : State) (p : Port) :
    (s.startRepeat p).mode = s.mode := rfl

@[simp] theorem State.startRepeat_meters (s : State) (p : Port) :
    (s.startRepeat p).meters = s.meters := rfl

@[simp] theorem State.startRepeat_toScreen (s : State) (p : Port) :
    (s.startRepeat p).toScreen = s.toScreen := rfl

@[simp] theorem State.startRepeat_isolatedPurges (s : State) (p : Port) :
    (s.startRepeat p).isolatedPurges = s.isolatedPurges := rfl

@[simp] theorem State.startRepeat_leases (s : State) (p : Port) :
    (s.startRepeat p).leases = s.leases := rfl

@[simp] theorem State.startRepeat_held (s : State) (p : Port) :
    (s.startRepeat p).held = s.held := rfl

@[simp] theorem State.startRepeat_credits (s : State) (p : Port) :
    (s.startRepeat p).credits = s.credits := rfl

@[simp] theorem State.startRepeat_lastShare (s : State) (p : Port) :
    (s.startRepeat p).lastShare = s.lastShare := rfl

@[simp] theorem State.startRepeat_fieldTx (s : State) (p : Port) :
    (s.startRepeat p).fieldTx = s.fieldTx := rfl

@[simp] theorem State.startRepeat_fieldEnd (s : State) (p : Port) :
    (s.startRepeat p).fieldEnd = s.fieldEnd := rfl

@[simp] theorem State.startRepeat_entries (s : State) (p : Port) :
    (s.startRepeat p).entries = s.entries := rfl

@[simp] theorem State.startRepeat_tagCounter (s : State) (p : Port) :
    (s.startRepeat p).tagCounter = s.tagCounter := rfl

@[simp] theorem State.startRepeat_stations (s : State) (p : Port) :
    (s.startRepeat p).stations = s.stations := rfl

@[simp] theorem State.startRepeat_outputs (s : State) (p : Port) :
    (s.startRepeat p).outputs = s.outputs := rfl

@[simp] theorem State.startRepeat_slots (s : State) (p : Port) :
    (s.startRepeat p).slots = s.slots := rfl

@[simp] theorem State.startRepeat_session (s : State) (p : Port) :
    (s.startRepeat p).session = s.session := rfl

@[simp] theorem State.startRepeat_restart (s : State) (p : Port) :
    (s.startRepeat p).restart = s.restart := rfl

@[simp] theorem State.startRepeat_counters (s : State) (p : Port) :
    (s.startRepeat p).counters = s.counters := rfl

@[simp] theorem State.startRepeat_fieldCounters (s : State) (p : Port) :
    (s.startRepeat p).fieldCounters = s.fieldCounters := rfl

@[simp] theorem State.startRepeat_store (s : State) (p : Port) :
    (s.startRepeat p).store = s.store := rfl

/-- An offer of an NTC reaches the output units and the notice states, and nothing else. -/
theorem State.offerNtc_frame (s : State) (p : Port) :
    ∃ o n, s.offerNtc p = { s with outputs := o, notices := n } := by
  unfold State.offerNtc
  dsimp only
  split
  · split <;> exact ⟨_, _, rfl⟩
  · exact ⟨_, _, rfl⟩

/-- A notice request reaches the output units and the notice states, and nothing else. -/
theorem State.request_frame (s : State) (f : NoticeFlag) (d : Detail) (p : Port) :
    ∃ o n, s.request f d p = { s with outputs := o, notices := n } := by
  unfold State.request
  dsimp only
  split
  · exact ⟨_, _, rfl⟩
  · split
    · obtain ⟨o, n, h⟩ := State.offerNtc_frame (s.withNotice p (((s.notice p).note d).raise f)) p
      exact ⟨o, n, h⟩
    · exact ⟨_, _, rfl⟩

/-! ### State.offerNtc -/

@[simp] theorem State.offerNtc_pending (s : State) (p : Port) :
    (s.offerNtc p).pending = s.pending := by
  obtain ⟨_, _, h⟩ := s.offerNtc_frame p; rw [h]

@[simp] theorem State.offerNtc_now (s : State) (p : Port) :
    (s.offerNtc p).now = s.now := by
  obtain ⟨_, _, h⟩ := s.offerNtc_frame p; rw [h]

@[simp] theorem State.offerNtc_choices (s : State) (p : Port) :
    (s.offerNtc p).choices = s.choices := by
  obtain ⟨_, _, h⟩ := s.offerNtc_frame p; rw [h]

@[simp] theorem State.offerNtc_supply (s : State) (p : Port) :
    (s.offerNtc p).supply = s.supply := by
  obtain ⟨_, _, h⟩ := s.offerNtc_frame p; rw [h]

@[simp] theorem State.offerNtc_resetLow (s : State) (p : Port) :
    (s.offerNtc p).resetLow = s.resetLow := by
  obtain ⟨_, _, h⟩ := s.offerNtc_frame p; rw [h]

@[simp] theorem State.offerNtc_supplyLost (s : State) (p : Port) :
    (s.offerNtc p).supplyLost = s.supplyLost := by
  obtain ⟨_, _, h⟩ := s.offerNtc_frame p; rw [h]

@[simp] theorem State.offerNtc_phase (s : State) (p : Port) :
    (s.offerNtc p).phase = s.phase := by
  obtain ⟨_, _, h⟩ := s.offerNtc_frame p; rw [h]

@[simp] theorem State.offerNtc_runningRate (s : State) (p : Port) :
    (s.offerNtc p).runningRate = s.runningRate := by
  obtain ⟨_, _, h⟩ := s.offerNtc_frame p; rw [h]

@[simp] theorem State.offerNtc_runningGap (s : State) (p : Port) :
    (s.offerNtc p).runningGap = s.runningGap := by
  obtain ⟨_, _, h⟩ := s.offerNtc_frame p; rw [h]

@[simp] theorem State.offerNtc_rx (s : State) (p : Port) :
    (s.offerNtc p).rx = s.rx := by
  obtain ⟨_, _, h⟩ := s.offerNtc_frame p; rw [h]

@[simp] theorem State.offerNtc_links (s : State) (p : Port) :
    (s.offerNtc p).links = s.links := by
  obtain ⟨_, _, h⟩ := s.offerNtc_frame p; rw [h]

@[simp] theorem State.offerNtc_leaseDown (s : State) (p : Port) :
    (s.offerNtc p).leaseDown = s.leaseDown := by
  obtain ⟨_, _, h⟩ := s.offerNtc_frame p; rw [h]

@[simp] theorem State.offerNtc_sessionDown (s : State) (p : Port) :
    (s.offerNtc p).sessionDown = s.sessionDown := by
  obtain ⟨_, _, h⟩ := s.offerNtc_frame p; rw [h]

@[simp] theorem State.offerNtc_noticeDown (s : State) (p : Port) :
    (s.offerNtc p).noticeDown = s.noticeDown := by
  obtain ⟨_, _, h⟩ := s.offerNtc_frame p; rw [h]

@[simp] theorem State.offerNtc_table (s : State) (p : Port) :
    (s.offerNtc p).table = s.table := by
  obtain ⟨_, _, h⟩ := s.offerNtc_frame p; rw [h]

@[simp] theorem State.offerNtc_lock (s : State) (p : Port) :
    (s.offerNtc p).lock = s.lock := by
  obtain ⟨_, _, h⟩ := s.offerNtc_frame p; rw [h]

@[simp] theorem State.offerNtc_settings (s : State) (p : Port) :
    (s.offerNtc p).settings = s.settings := by
  obtain ⟨_, _, h⟩ := s.offerNtc_frame p; rw [h]

@[simp] theorem State.offerNtc_hitRaises (s : State) (p : Port) :
    (s.offerNtc p).hitRaises = s.hitRaises := by
  obtain ⟨_, _, h⟩ := s.offerNtc_frame p; rw [h]

@[simp] theorem State.offerNtc_mode (s : State) (p : Port) :
    (s.offerNtc p).mode = s.mode := by
  obtain ⟨_, _, h⟩ := s.offerNtc_frame p; rw [h]

@[simp] theorem State.offerNtc_meters (s : State) (p : Port) :
    (s.offerNtc p).meters = s.meters := by
  obtain ⟨_, _, h⟩ := s.offerNtc_frame p; rw [h]

@[simp] theorem State.offerNtc_toScreen (s : State) (p : Port) :
    (s.offerNtc p).toScreen = s.toScreen := by
  obtain ⟨_, _, h⟩ := s.offerNtc_frame p; rw [h]

@[simp] theorem State.offerNtc_isolatedPurges (s : State) (p : Port) :
    (s.offerNtc p).isolatedPurges = s.isolatedPurges := by
  obtain ⟨_, _, h⟩ := s.offerNtc_frame p; rw [h]

@[simp] theorem State.offerNtc_leases (s : State) (p : Port) :
    (s.offerNtc p).leases = s.leases := by
  obtain ⟨_, _, h⟩ := s.offerNtc_frame p; rw [h]

@[simp] theorem State.offerNtc_held (s : State) (p : Port) :
    (s.offerNtc p).held = s.held := by
  obtain ⟨_, _, h⟩ := s.offerNtc_frame p; rw [h]

@[simp] theorem State.offerNtc_credits (s : State) (p : Port) :
    (s.offerNtc p).credits = s.credits := by
  obtain ⟨_, _, h⟩ := s.offerNtc_frame p; rw [h]

@[simp] theorem State.offerNtc_lastShare (s : State) (p : Port) :
    (s.offerNtc p).lastShare = s.lastShare := by
  obtain ⟨_, _, h⟩ := s.offerNtc_frame p; rw [h]

@[simp] theorem State.offerNtc_fieldTx (s : State) (p : Port) :
    (s.offerNtc p).fieldTx = s.fieldTx := by
  obtain ⟨_, _, h⟩ := s.offerNtc_frame p; rw [h]

@[simp] theorem State.offerNtc_fieldEnd (s : State) (p : Port) :
    (s.offerNtc p).fieldEnd = s.fieldEnd := by
  obtain ⟨_, _, h⟩ := s.offerNtc_frame p; rw [h]

@[simp] theorem State.offerNtc_entries (s : State) (p : Port) :
    (s.offerNtc p).entries = s.entries := by
  obtain ⟨_, _, h⟩ := s.offerNtc_frame p; rw [h]

@[simp] theorem State.offerNtc_tagCounter (s : State) (p : Port) :
    (s.offerNtc p).tagCounter = s.tagCounter := by
  obtain ⟨_, _, h⟩ := s.offerNtc_frame p; rw [h]

@[simp] theorem State.offerNtc_stations (s : State) (p : Port) :
    (s.offerNtc p).stations = s.stations := by
  obtain ⟨_, _, h⟩ := s.offerNtc_frame p; rw [h]

@[simp] theorem State.offerNtc_slots (s : State) (p : Port) :
    (s.offerNtc p).slots = s.slots := by
  obtain ⟨_, _, h⟩ := s.offerNtc_frame p; rw [h]

@[simp] theorem State.offerNtc_session (s : State) (p : Port) :
    (s.offerNtc p).session = s.session := by
  obtain ⟨_, _, h⟩ := s.offerNtc_frame p; rw [h]

@[simp] theorem State.offerNtc_restart (s : State) (p : Port) :
    (s.offerNtc p).restart = s.restart := by
  obtain ⟨_, _, h⟩ := s.offerNtc_frame p; rw [h]

@[simp] theorem State.offerNtc_counters (s : State) (p : Port) :
    (s.offerNtc p).counters = s.counters := by
  obtain ⟨_, _, h⟩ := s.offerNtc_frame p; rw [h]

@[simp] theorem State.offerNtc_fieldCounters (s : State) (p : Port) :
    (s.offerNtc p).fieldCounters = s.fieldCounters := by
  obtain ⟨_, _, h⟩ := s.offerNtc_frame p; rw [h]

@[simp] theorem State.offerNtc_store (s : State) (p : Port) :
    (s.offerNtc p).store = s.store := by
  obtain ⟨_, _, h⟩ := s.offerNtc_frame p; rw [h]

/-! ### State.request -/

@[simp] theorem State.request_pending (s : State) (f : NoticeFlag) (d : Detail) (p : Port) :
    (s.request f d p).pending = s.pending := by
  obtain ⟨_, _, h⟩ := s.request_frame f d p; rw [h]

@[simp] theorem State.request_now (s : State) (f : NoticeFlag) (d : Detail) (p : Port) :
    (s.request f d p).now = s.now := by
  obtain ⟨_, _, h⟩ := s.request_frame f d p; rw [h]

@[simp] theorem State.request_choices (s : State) (f : NoticeFlag) (d : Detail) (p : Port) :
    (s.request f d p).choices = s.choices := by
  obtain ⟨_, _, h⟩ := s.request_frame f d p; rw [h]

@[simp] theorem State.request_supply (s : State) (f : NoticeFlag) (d : Detail) (p : Port) :
    (s.request f d p).supply = s.supply := by
  obtain ⟨_, _, h⟩ := s.request_frame f d p; rw [h]

@[simp] theorem State.request_resetLow (s : State) (f : NoticeFlag) (d : Detail) (p : Port) :
    (s.request f d p).resetLow = s.resetLow := by
  obtain ⟨_, _, h⟩ := s.request_frame f d p; rw [h]

@[simp] theorem State.request_supplyLost (s : State) (f : NoticeFlag) (d : Detail) (p : Port) :
    (s.request f d p).supplyLost = s.supplyLost := by
  obtain ⟨_, _, h⟩ := s.request_frame f d p; rw [h]

@[simp] theorem State.request_phase (s : State) (f : NoticeFlag) (d : Detail) (p : Port) :
    (s.request f d p).phase = s.phase := by
  obtain ⟨_, _, h⟩ := s.request_frame f d p; rw [h]

@[simp] theorem State.request_runningRate (s : State) (f : NoticeFlag) (d : Detail) (p : Port) :
    (s.request f d p).runningRate = s.runningRate := by
  obtain ⟨_, _, h⟩ := s.request_frame f d p; rw [h]

@[simp] theorem State.request_runningGap (s : State) (f : NoticeFlag) (d : Detail) (p : Port) :
    (s.request f d p).runningGap = s.runningGap := by
  obtain ⟨_, _, h⟩ := s.request_frame f d p; rw [h]

@[simp] theorem State.request_rx (s : State) (f : NoticeFlag) (d : Detail) (p : Port) :
    (s.request f d p).rx = s.rx := by
  obtain ⟨_, _, h⟩ := s.request_frame f d p; rw [h]

@[simp] theorem State.request_links (s : State) (f : NoticeFlag) (d : Detail) (p : Port) :
    (s.request f d p).links = s.links := by
  obtain ⟨_, _, h⟩ := s.request_frame f d p; rw [h]

@[simp] theorem State.request_leaseDown (s : State) (f : NoticeFlag) (d : Detail) (p : Port) :
    (s.request f d p).leaseDown = s.leaseDown := by
  obtain ⟨_, _, h⟩ := s.request_frame f d p; rw [h]

@[simp] theorem State.request_sessionDown (s : State) (f : NoticeFlag) (d : Detail) (p : Port) :
    (s.request f d p).sessionDown = s.sessionDown := by
  obtain ⟨_, _, h⟩ := s.request_frame f d p; rw [h]

@[simp] theorem State.request_noticeDown (s : State) (f : NoticeFlag) (d : Detail) (p : Port) :
    (s.request f d p).noticeDown = s.noticeDown := by
  obtain ⟨_, _, h⟩ := s.request_frame f d p; rw [h]

@[simp] theorem State.request_table (s : State) (f : NoticeFlag) (d : Detail) (p : Port) :
    (s.request f d p).table = s.table := by
  obtain ⟨_, _, h⟩ := s.request_frame f d p; rw [h]

@[simp] theorem State.request_lock (s : State) (f : NoticeFlag) (d : Detail) (p : Port) :
    (s.request f d p).lock = s.lock := by
  obtain ⟨_, _, h⟩ := s.request_frame f d p; rw [h]

@[simp] theorem State.request_settings (s : State) (f : NoticeFlag) (d : Detail) (p : Port) :
    (s.request f d p).settings = s.settings := by
  obtain ⟨_, _, h⟩ := s.request_frame f d p; rw [h]

@[simp] theorem State.request_hitRaises (s : State) (f : NoticeFlag) (d : Detail) (p : Port) :
    (s.request f d p).hitRaises = s.hitRaises := by
  obtain ⟨_, _, h⟩ := s.request_frame f d p; rw [h]

@[simp] theorem State.request_mode (s : State) (f : NoticeFlag) (d : Detail) (p : Port) :
    (s.request f d p).mode = s.mode := by
  obtain ⟨_, _, h⟩ := s.request_frame f d p; rw [h]

@[simp] theorem State.request_meters (s : State) (f : NoticeFlag) (d : Detail) (p : Port) :
    (s.request f d p).meters = s.meters := by
  obtain ⟨_, _, h⟩ := s.request_frame f d p; rw [h]

@[simp] theorem State.request_toScreen (s : State) (f : NoticeFlag) (d : Detail) (p : Port) :
    (s.request f d p).toScreen = s.toScreen := by
  obtain ⟨_, _, h⟩ := s.request_frame f d p; rw [h]

@[simp] theorem State.request_isolatedPurges (s : State) (f : NoticeFlag) (d : Detail) (p : Port) :
    (s.request f d p).isolatedPurges = s.isolatedPurges := by
  obtain ⟨_, _, h⟩ := s.request_frame f d p; rw [h]

@[simp] theorem State.request_leases (s : State) (f : NoticeFlag) (d : Detail) (p : Port) :
    (s.request f d p).leases = s.leases := by
  obtain ⟨_, _, h⟩ := s.request_frame f d p; rw [h]

@[simp] theorem State.request_held (s : State) (f : NoticeFlag) (d : Detail) (p : Port) :
    (s.request f d p).held = s.held := by
  obtain ⟨_, _, h⟩ := s.request_frame f d p; rw [h]

@[simp] theorem State.request_credits (s : State) (f : NoticeFlag) (d : Detail) (p : Port) :
    (s.request f d p).credits = s.credits := by
  obtain ⟨_, _, h⟩ := s.request_frame f d p; rw [h]

@[simp] theorem State.request_lastShare (s : State) (f : NoticeFlag) (d : Detail) (p : Port) :
    (s.request f d p).lastShare = s.lastShare := by
  obtain ⟨_, _, h⟩ := s.request_frame f d p; rw [h]

@[simp] theorem State.request_fieldTx (s : State) (f : NoticeFlag) (d : Detail) (p : Port) :
    (s.request f d p).fieldTx = s.fieldTx := by
  obtain ⟨_, _, h⟩ := s.request_frame f d p; rw [h]

@[simp] theorem State.request_fieldEnd (s : State) (f : NoticeFlag) (d : Detail) (p : Port) :
    (s.request f d p).fieldEnd = s.fieldEnd := by
  obtain ⟨_, _, h⟩ := s.request_frame f d p; rw [h]

@[simp] theorem State.request_entries (s : State) (f : NoticeFlag) (d : Detail) (p : Port) :
    (s.request f d p).entries = s.entries := by
  obtain ⟨_, _, h⟩ := s.request_frame f d p; rw [h]

@[simp] theorem State.request_tagCounter (s : State) (f : NoticeFlag) (d : Detail) (p : Port) :
    (s.request f d p).tagCounter = s.tagCounter := by
  obtain ⟨_, _, h⟩ := s.request_frame f d p; rw [h]

@[simp] theorem State.request_stations (s : State) (f : NoticeFlag) (d : Detail) (p : Port) :
    (s.request f d p).stations = s.stations := by
  obtain ⟨_, _, h⟩ := s.request_frame f d p; rw [h]

@[simp] theorem State.request_slots (s : State) (f : NoticeFlag) (d : Detail) (p : Port) :
    (s.request f d p).slots = s.slots := by
  obtain ⟨_, _, h⟩ := s.request_frame f d p; rw [h]

@[simp] theorem State.request_session (s : State) (f : NoticeFlag) (d : Detail) (p : Port) :
    (s.request f d p).session = s.session := by
  obtain ⟨_, _, h⟩ := s.request_frame f d p; rw [h]

@[simp] theorem State.request_restart (s : State) (f : NoticeFlag) (d : Detail) (p : Port) :
    (s.request f d p).restart = s.restart := by
  obtain ⟨_, _, h⟩ := s.request_frame f d p; rw [h]

@[simp] theorem State.request_counters (s : State) (f : NoticeFlag) (d : Detail) (p : Port) :
    (s.request f d p).counters = s.counters := by
  obtain ⟨_, _, h⟩ := s.request_frame f d p; rw [h]

@[simp] theorem State.request_fieldCounters (s : State) (f : NoticeFlag) (d : Detail) (p : Port) :
    (s.request f d p).fieldCounters = s.fieldCounters := by
  obtain ⟨_, _, h⟩ := s.request_frame f d p; rw [h]

@[simp] theorem State.request_store (s : State) (f : NoticeFlag) (d : Detail) (p : Port) :
    (s.request f d p).store = s.store := by
  obtain ⟨_, _, h⟩ := s.request_frame f d p; rw [h]

/-! ### State.maskChange -/

@[simp] theorem State.maskChange_pending (s : State) (p : Port) :
    (s.maskChange p).pending = s.pending := by
  unfold State.maskChange; split <;> rfl

@[simp] theorem State.maskChange_now (s : State) (p : Port) :
    (s.maskChange p).now = s.now := by
  unfold State.maskChange; split <;> rfl

@[simp] theorem State.maskChange_choices (s : State) (p : Port) :
    (s.maskChange p).choices = s.choices := by
  unfold State.maskChange; split <;> rfl

@[simp] theorem State.maskChange_supply (s : State) (p : Port) :
    (s.maskChange p).supply = s.supply := by
  unfold State.maskChange; split <;> rfl

@[simp] theorem State.maskChange_resetLow (s : State) (p : Port) :
    (s.maskChange p).resetLow = s.resetLow := by
  unfold State.maskChange; split <;> rfl

@[simp] theorem State.maskChange_supplyLost (s : State) (p : Port) :
    (s.maskChange p).supplyLost = s.supplyLost := by
  unfold State.maskChange; split <;> rfl

@[simp] theorem State.maskChange_phase (s : State) (p : Port) :
    (s.maskChange p).phase = s.phase := by
  unfold State.maskChange; split <;> rfl

@[simp] theorem State.maskChange_runningRate (s : State) (p : Port) :
    (s.maskChange p).runningRate = s.runningRate := by
  unfold State.maskChange; split <;> rfl

@[simp] theorem State.maskChange_runningGap (s : State) (p : Port) :
    (s.maskChange p).runningGap = s.runningGap := by
  unfold State.maskChange; split <;> rfl

@[simp] theorem State.maskChange_rx (s : State) (p : Port) :
    (s.maskChange p).rx = s.rx := by
  unfold State.maskChange; split <;> rfl

@[simp] theorem State.maskChange_links (s : State) (p : Port) :
    (s.maskChange p).links = s.links := by
  unfold State.maskChange; split <;> rfl

@[simp] theorem State.maskChange_leaseDown (s : State) (p : Port) :
    (s.maskChange p).leaseDown = s.leaseDown := by
  unfold State.maskChange; split <;> rfl

@[simp] theorem State.maskChange_sessionDown (s : State) (p : Port) :
    (s.maskChange p).sessionDown = s.sessionDown := by
  unfold State.maskChange; split <;> rfl

@[simp] theorem State.maskChange_noticeDown (s : State) (p : Port) :
    (s.maskChange p).noticeDown = s.noticeDown := by
  unfold State.maskChange; split <;> rfl

@[simp] theorem State.maskChange_table (s : State) (p : Port) :
    (s.maskChange p).table = s.table := by
  unfold State.maskChange; split <;> rfl

@[simp] theorem State.maskChange_lock (s : State) (p : Port) :
    (s.maskChange p).lock = s.lock := by
  unfold State.maskChange; split <;> rfl

@[simp] theorem State.maskChange_settings (s : State) (p : Port) :
    (s.maskChange p).settings = s.settings := by
  unfold State.maskChange; split <;> rfl

@[simp] theorem State.maskChange_hitRaises (s : State) (p : Port) :
    (s.maskChange p).hitRaises = s.hitRaises := by
  unfold State.maskChange; split <;> rfl

@[simp] theorem State.maskChange_mode (s : State) (p : Port) :
    (s.maskChange p).mode = s.mode := by
  unfold State.maskChange; split <;> rfl

@[simp] theorem State.maskChange_meters (s : State) (p : Port) :
    (s.maskChange p).meters = s.meters := by
  unfold State.maskChange; split <;> rfl

@[simp] theorem State.maskChange_toScreen (s : State) (p : Port) :
    (s.maskChange p).toScreen = s.toScreen := by
  unfold State.maskChange; split <;> rfl

@[simp] theorem State.maskChange_isolatedPurges (s : State) (p : Port) :
    (s.maskChange p).isolatedPurges = s.isolatedPurges := by
  unfold State.maskChange; split <;> rfl

@[simp] theorem State.maskChange_leases (s : State) (p : Port) :
    (s.maskChange p).leases = s.leases := by
  unfold State.maskChange; split <;> rfl

@[simp] theorem State.maskChange_held (s : State) (p : Port) :
    (s.maskChange p).held = s.held := by
  unfold State.maskChange; split <;> rfl

@[simp] theorem State.maskChange_credits (s : State) (p : Port) :
    (s.maskChange p).credits = s.credits := by
  unfold State.maskChange; split <;> rfl

@[simp] theorem State.maskChange_lastShare (s : State) (p : Port) :
    (s.maskChange p).lastShare = s.lastShare := by
  unfold State.maskChange; split <;> rfl

@[simp] theorem State.maskChange_fieldTx (s : State) (p : Port) :
    (s.maskChange p).fieldTx = s.fieldTx := by
  unfold State.maskChange; split <;> rfl

@[simp] theorem State.maskChange_fieldEnd (s : State) (p : Port) :
    (s.maskChange p).fieldEnd = s.fieldEnd := by
  unfold State.maskChange; split <;> rfl

@[simp] theorem State.maskChange_entries (s : State) (p : Port) :
    (s.maskChange p).entries = s.entries := by
  unfold State.maskChange; split <;> rfl

@[simp] theorem State.maskChange_tagCounter (s : State) (p : Port) :
    (s.maskChange p).tagCounter = s.tagCounter := by
  unfold State.maskChange; split <;> rfl

@[simp] theorem State.maskChange_stations (s : State) (p : Port) :
    (s.maskChange p).stations = s.stations := by
  unfold State.maskChange; split <;> rfl

@[simp] theorem State.maskChange_outputs (s : State) (p : Port) :
    (s.maskChange p).outputs = s.outputs := by
  unfold State.maskChange; split <;> rfl

@[simp] theorem State.maskChange_slots (s : State) (p : Port) :
    (s.maskChange p).slots = s.slots := by
  unfold State.maskChange; split <;> rfl

@[simp] theorem State.maskChange_session (s : State) (p : Port) :
    (s.maskChange p).session = s.session := by
  unfold State.maskChange; split <;> rfl

@[simp] theorem State.maskChange_restart (s : State) (p : Port) :
    (s.maskChange p).restart = s.restart := by
  unfold State.maskChange; split <;> rfl

@[simp] theorem State.maskChange_counters (s : State) (p : Port) :
    (s.maskChange p).counters = s.counters := by
  unfold State.maskChange; split <;> rfl

@[simp] theorem State.maskChange_fieldCounters (s : State) (p : Port) :
    (s.maskChange p).fieldCounters = s.fieldCounters := by
  unfold State.maskChange; split <;> rfl

@[simp] theorem State.maskChange_store (s : State) (p : Port) :
    (s.maskChange p).store = s.store := by
  unfold State.maskChange; split <;> rfl

/-! ### State.takeToken -/

@[simp] theorem State.takeToken_pending (s : State) (k : Nat) :
    (s.takeToken k).pending = s.pending := by
  unfold State.takeToken; split <;> [exact State.withMeter_pending _ _ _; rfl]

@[simp] theorem State.takeToken_now (s : State) (k : Nat) :
    (s.takeToken k).now = s.now := by
  unfold State.takeToken; split <;> [exact State.withMeter_now _ _ _; rfl]

@[simp] theorem State.takeToken_choices (s : State) (k : Nat) :
    (s.takeToken k).choices = s.choices := by
  unfold State.takeToken; split <;> [exact State.withMeter_choices _ _ _; rfl]

@[simp] theorem State.takeToken_supply (s : State) (k : Nat) :
    (s.takeToken k).supply = s.supply := by
  unfold State.takeToken; split <;> [exact State.withMeter_supply _ _ _; rfl]

@[simp] theorem State.takeToken_resetLow (s : State) (k : Nat) :
    (s.takeToken k).resetLow = s.resetLow := by
  unfold State.takeToken; split <;> [exact State.withMeter_resetLow _ _ _; rfl]

@[simp] theorem State.takeToken_supplyLost (s : State) (k : Nat) :
    (s.takeToken k).supplyLost = s.supplyLost := by
  unfold State.takeToken; split <;> [exact State.withMeter_supplyLost _ _ _; rfl]

@[simp] theorem State.takeToken_phase (s : State) (k : Nat) :
    (s.takeToken k).phase = s.phase := by
  unfold State.takeToken; split <;> [exact State.withMeter_phase _ _ _; rfl]

@[simp] theorem State.takeToken_runningRate (s : State) (k : Nat) :
    (s.takeToken k).runningRate = s.runningRate := by
  unfold State.takeToken; split <;> [exact State.withMeter_runningRate _ _ _; rfl]

@[simp] theorem State.takeToken_runningGap (s : State) (k : Nat) :
    (s.takeToken k).runningGap = s.runningGap := by
  unfold State.takeToken; split <;> [exact State.withMeter_runningGap _ _ _; rfl]

@[simp] theorem State.takeToken_rx (s : State) (k : Nat) :
    (s.takeToken k).rx = s.rx := by
  unfold State.takeToken; split <;> [exact State.withMeter_rx _ _ _; rfl]

@[simp] theorem State.takeToken_links (s : State) (k : Nat) :
    (s.takeToken k).links = s.links := by
  unfold State.takeToken; split <;> [exact State.withMeter_links _ _ _; rfl]

@[simp] theorem State.takeToken_leaseDown (s : State) (k : Nat) :
    (s.takeToken k).leaseDown = s.leaseDown := by
  unfold State.takeToken; split <;> [exact State.withMeter_leaseDown _ _ _; rfl]

@[simp] theorem State.takeToken_sessionDown (s : State) (k : Nat) :
    (s.takeToken k).sessionDown = s.sessionDown := by
  unfold State.takeToken; split <;> [exact State.withMeter_sessionDown _ _ _; rfl]

@[simp] theorem State.takeToken_noticeDown (s : State) (k : Nat) :
    (s.takeToken k).noticeDown = s.noticeDown := by
  unfold State.takeToken; split <;> [exact State.withMeter_noticeDown _ _ _; rfl]

@[simp] theorem State.takeToken_table (s : State) (k : Nat) :
    (s.takeToken k).table = s.table := by
  unfold State.takeToken; split <;> [exact State.withMeter_table _ _ _; rfl]

@[simp] theorem State.takeToken_lock (s : State) (k : Nat) :
    (s.takeToken k).lock = s.lock := by
  unfold State.takeToken; split <;> [exact State.withMeter_lock _ _ _; rfl]

@[simp] theorem State.takeToken_settings (s : State) (k : Nat) :
    (s.takeToken k).settings = s.settings := by
  unfold State.takeToken; split <;> [exact State.withMeter_settings _ _ _; rfl]

@[simp] theorem State.takeToken_hitRaises (s : State) (k : Nat) :
    (s.takeToken k).hitRaises = s.hitRaises := by
  unfold State.takeToken; split <;> [exact State.withMeter_hitRaises _ _ _; rfl]

@[simp] theorem State.takeToken_mode (s : State) (k : Nat) :
    (s.takeToken k).mode = s.mode := by
  unfold State.takeToken; split <;> [exact State.withMeter_mode _ _ _; rfl]

@[simp] theorem State.takeToken_toScreen (s : State) (k : Nat) :
    (s.takeToken k).toScreen = s.toScreen := by
  unfold State.takeToken; split <;> [exact State.withMeter_toScreen _ _ _; rfl]

@[simp] theorem State.takeToken_isolatedPurges (s : State) (k : Nat) :
    (s.takeToken k).isolatedPurges = s.isolatedPurges := by
  unfold State.takeToken; split <;> [exact State.withMeter_isolatedPurges _ _ _; rfl]

@[simp] theorem State.takeToken_leases (s : State) (k : Nat) :
    (s.takeToken k).leases = s.leases := by
  unfold State.takeToken; split <;> [exact State.withMeter_leases _ _ _; rfl]

@[simp] theorem State.takeToken_held (s : State) (k : Nat) :
    (s.takeToken k).held = s.held := by
  unfold State.takeToken; split <;> [exact State.withMeter_held _ _ _; rfl]

@[simp] theorem State.takeToken_credits (s : State) (k : Nat) :
    (s.takeToken k).credits = s.credits := by
  unfold State.takeToken; split <;> [exact State.withMeter_credits _ _ _; rfl]

@[simp] theorem State.takeToken_lastShare (s : State) (k : Nat) :
    (s.takeToken k).lastShare = s.lastShare := by
  unfold State.takeToken; split <;> [exact State.withMeter_lastShare _ _ _; rfl]

@[simp] theorem State.takeToken_fieldTx (s : State) (k : Nat) :
    (s.takeToken k).fieldTx = s.fieldTx := by
  unfold State.takeToken; split <;> [exact State.withMeter_fieldTx _ _ _; rfl]

@[simp] theorem State.takeToken_fieldEnd (s : State) (k : Nat) :
    (s.takeToken k).fieldEnd = s.fieldEnd := by
  unfold State.takeToken; split <;> [exact State.withMeter_fieldEnd _ _ _; rfl]

@[simp] theorem State.takeToken_entries (s : State) (k : Nat) :
    (s.takeToken k).entries = s.entries := by
  unfold State.takeToken; split <;> [exact State.withMeter_entries _ _ _; rfl]

@[simp] theorem State.takeToken_tagCounter (s : State) (k : Nat) :
    (s.takeToken k).tagCounter = s.tagCounter := by
  unfold State.takeToken; split <;> [exact State.withMeter_tagCounter _ _ _; rfl]

@[simp] theorem State.takeToken_stations (s : State) (k : Nat) :
    (s.takeToken k).stations = s.stations := by
  unfold State.takeToken; split <;> [exact State.withMeter_stations _ _ _; rfl]

@[simp] theorem State.takeToken_outputs (s : State) (k : Nat) :
    (s.takeToken k).outputs = s.outputs := by
  unfold State.takeToken; split <;> [exact State.withMeter_outputs _ _ _; rfl]

@[simp] theorem State.takeToken_notices (s : State) (k : Nat) :
    (s.takeToken k).notices = s.notices := by
  unfold State.takeToken; split <;> [exact State.withMeter_notices _ _ _; rfl]

@[simp] theorem State.takeToken_slots (s : State) (k : Nat) :
    (s.takeToken k).slots = s.slots := by
  unfold State.takeToken; split <;> [exact State.withMeter_slots _ _ _; rfl]

@[simp] theorem State.takeToken_session (s : State) (k : Nat) :
    (s.takeToken k).session = s.session := by
  unfold State.takeToken; split <;> [exact State.withMeter_session _ _ _; rfl]

@[simp] theorem State.takeToken_restart (s : State) (k : Nat) :
    (s.takeToken k).restart = s.restart := by
  unfold State.takeToken; split <;> [exact State.withMeter_restart _ _ _; rfl]

@[simp] theorem State.takeToken_counters (s : State) (k : Nat) :
    (s.takeToken k).counters = s.counters := by
  unfold State.takeToken; split <;> [exact State.withMeter_counters _ _ _; rfl]

@[simp] theorem State.takeToken_fieldCounters (s : State) (k : Nat) :
    (s.takeToken k).fieldCounters = s.fieldCounters := by
  unfold State.takeToken; split <;> [exact State.withMeter_fieldCounters _ _ _; rfl]

@[simp] theorem State.takeToken_store (s : State) (k : Nat) :
    (s.takeToken k).store = s.store := by
  unfold State.takeToken; split <;> [exact State.withMeter_store _ _ _; rfl]

/-! ### State.countFraming -/

@[simp] theorem State.countFraming_pending (s : State) (l : Line) :
    (s.countFraming l).pending = s.pending := by cases l <;> rfl

@[simp] theorem State.countFraming_now (s : State) (l : Line) :
    (s.countFraming l).now = s.now := by cases l <;> rfl

@[simp] theorem State.countFraming_choices (s : State) (l : Line) :
    (s.countFraming l).choices = s.choices := by cases l <;> rfl

@[simp] theorem State.countFraming_supply (s : State) (l : Line) :
    (s.countFraming l).supply = s.supply := by cases l <;> rfl

@[simp] theorem State.countFraming_resetLow (s : State) (l : Line) :
    (s.countFraming l).resetLow = s.resetLow := by cases l <;> rfl

@[simp] theorem State.countFraming_supplyLost (s : State) (l : Line) :
    (s.countFraming l).supplyLost = s.supplyLost := by cases l <;> rfl

@[simp] theorem State.countFraming_phase (s : State) (l : Line) :
    (s.countFraming l).phase = s.phase := by cases l <;> rfl

@[simp] theorem State.countFraming_runningRate (s : State) (l : Line) :
    (s.countFraming l).runningRate = s.runningRate := by cases l <;> rfl

@[simp] theorem State.countFraming_runningGap (s : State) (l : Line) :
    (s.countFraming l).runningGap = s.runningGap := by cases l <;> rfl

@[simp] theorem State.countFraming_rx (s : State) (l : Line) :
    (s.countFraming l).rx = s.rx := by cases l <;> rfl

@[simp] theorem State.countFraming_links (s : State) (l : Line) :
    (s.countFraming l).links = s.links := by cases l <;> rfl

@[simp] theorem State.countFraming_leaseDown (s : State) (l : Line) :
    (s.countFraming l).leaseDown = s.leaseDown := by cases l <;> rfl

@[simp] theorem State.countFraming_sessionDown (s : State) (l : Line) :
    (s.countFraming l).sessionDown = s.sessionDown := by cases l <;> rfl

@[simp] theorem State.countFraming_noticeDown (s : State) (l : Line) :
    (s.countFraming l).noticeDown = s.noticeDown := by cases l <;> rfl

@[simp] theorem State.countFraming_table (s : State) (l : Line) :
    (s.countFraming l).table = s.table := by cases l <;> rfl

@[simp] theorem State.countFraming_lock (s : State) (l : Line) :
    (s.countFraming l).lock = s.lock := by cases l <;> rfl

@[simp] theorem State.countFraming_settings (s : State) (l : Line) :
    (s.countFraming l).settings = s.settings := by cases l <;> rfl

@[simp] theorem State.countFraming_hitRaises (s : State) (l : Line) :
    (s.countFraming l).hitRaises = s.hitRaises := by cases l <;> rfl

@[simp] theorem State.countFraming_mode (s : State) (l : Line) :
    (s.countFraming l).mode = s.mode := by cases l <;> rfl

@[simp] theorem State.countFraming_meters (s : State) (l : Line) :
    (s.countFraming l).meters = s.meters := by cases l <;> rfl

@[simp] theorem State.countFraming_toScreen (s : State) (l : Line) :
    (s.countFraming l).toScreen = s.toScreen := by cases l <;> rfl

@[simp] theorem State.countFraming_isolatedPurges (s : State) (l : Line) :
    (s.countFraming l).isolatedPurges = s.isolatedPurges := by cases l <;> rfl

@[simp] theorem State.countFraming_leases (s : State) (l : Line) :
    (s.countFraming l).leases = s.leases := by cases l <;> rfl

@[simp] theorem State.countFraming_held (s : State) (l : Line) :
    (s.countFraming l).held = s.held := by cases l <;> rfl

@[simp] theorem State.countFraming_credits (s : State) (l : Line) :
    (s.countFraming l).credits = s.credits := by cases l <;> rfl

@[simp] theorem State.countFraming_lastShare (s : State) (l : Line) :
    (s.countFraming l).lastShare = s.lastShare := by cases l <;> rfl

@[simp] theorem State.countFraming_fieldTx (s : State) (l : Line) :
    (s.countFraming l).fieldTx = s.fieldTx := by cases l <;> rfl

@[simp] theorem State.countFraming_fieldEnd (s : State) (l : Line) :
    (s.countFraming l).fieldEnd = s.fieldEnd := by cases l <;> rfl

@[simp] theorem State.countFraming_entries (s : State) (l : Line) :
    (s.countFraming l).entries = s.entries := by cases l <;> rfl

@[simp] theorem State.countFraming_tagCounter (s : State) (l : Line) :
    (s.countFraming l).tagCounter = s.tagCounter := by cases l <;> rfl

@[simp] theorem State.countFraming_stations (s : State) (l : Line) :
    (s.countFraming l).stations = s.stations := by cases l <;> rfl

@[simp] theorem State.countFraming_outputs (s : State) (l : Line) :
    (s.countFraming l).outputs = s.outputs := by cases l <;> rfl

@[simp] theorem State.countFraming_notices (s : State) (l : Line) :
    (s.countFraming l).notices = s.notices := by cases l <;> rfl

@[simp] theorem State.countFraming_slots (s : State) (l : Line) :
    (s.countFraming l).slots = s.slots := by cases l <;> rfl

@[simp] theorem State.countFraming_session (s : State) (l : Line) :
    (s.countFraming l).session = s.session := by cases l <;> rfl

@[simp] theorem State.countFraming_restart (s : State) (l : Line) :
    (s.countFraming l).restart = s.restart := by cases l <;> rfl

@[simp] theorem State.countFraming_store (s : State) (l : Line) :
    (s.countFraming l).store = s.store := by cases l <;> rfl

end Sys2Proof.Machine
end

