-- ==== Sys2Proof/Laws/Ops.lean ====
section
/-! SUPPORT. What each shared operation does, said once: the frame of a running happening and of a
management operation, free orders, the output units, the notice unit, the indexed tables. -/

namespace Sys2Proof.Machine

/-! ## Running, and the frame of a management operation -/

/-- In the running relay a happening is taken. -/
@[simp] theorem State.whenRunning_running {s : State} (h : s.phase = .running) (f : State → State) :
    s.whenRunning f = .next (f s) := by simp [State.whenRunning, h]

/-- Outside it no happening is taken (R174). -/
theorem State.whenRunning_held {s : State} (h : s.phase ≠ .running) (f : State → State) :
    s.whenRunning f = .next s := by
  unfold State.whenRunning
  split <;> simp_all

/-- Every happening answers a next state: the happening's, or the state unchanged. -/
theorem State.whenRunning_cases {s t : State} {f : State → State} (h : s.whenRunning f = .next t) :
    t = f s ∨ t = s := by
  unfold State.whenRunning at h
  split at h <;> simp_all

/-- The end of an operation that the MGT of the first slot asks for. -/
theorem State.whenMgt_head {s : State} {m : Mgt} {more : List Mgt} (hp : s.phase = .running)
    (hr : s.restart = none) (hs : s.slots = m :: more) (takes : Byte → Bool) (ht : takes m.code = true)
    (f : Mgt → State → State) : s.whenMgt takes f = .next (f m s) := by
  simp [State.whenMgt, hp, hr, hs, ht]

/-- What the end of a management operation can leave: the operation's effect under its frame, or the
state unchanged. -/
theorem State.whenMgt_cases {s t : State} {takes : Byte → Bool} {f : Mgt → State → State}
    (h : s.whenMgt takes f = .next t) :
    (∃ m more, s.phase = .running ∧ s.restart = none ∧ s.slots = m :: more ∧ takes m.code = true
      ∧ t = f m s) ∨ t = s := by
  unfold State.whenMgt State.whenRunning at h
  split at h
  · dsimp only at h
    split at h
    · rename_i m more hr hs
      split at h
      · simp only [Host.Outcome.next.injEq] at h
        exact .inl ⟨m, more, ‹_›, hr, hs, ‹_›, h.symm⟩
      · simp_all
    · simp_all
  · simp_all
  · simp_all

/-- The judgement of an operation's length comes first (R9). -/
theorem State.whenOp_head {s : State} {m : Mgt} {more : List Mgt} (hp : s.phase = .running)
    (hr : s.restart = none) (hs : s.slots = m :: more) {code : Byte} (hc : m.code = code) (len : Nat)
    (f : Mgt → State → State) :
    s.whenOp code len f
      = .next (if m.data.length = len then f m s else s.finish m .badArgument []) := by
  simp only [State.whenOp]
  rw [State.whenMgt_head hp hr hs _ (by simp [hc])]

/-- What the end of an operation with a length can leave. -/
theorem State.whenOp_cases {s t : State} {code : Byte} {len : Nat} {f : Mgt → State → State}
    (h : s.whenOp code len f = .next t) :
    (∃ m more, s.phase = .running ∧ s.restart = none ∧ s.slots = m :: more ∧ m.code = code
      ∧ (m.data.length = len ∧ t = f m s ∨ t = s.finish m .badArgument [])) ∨ t = s := by
  rcases State.whenMgt_cases h with ⟨m, more, hp, hr, hs, hc, ht⟩ | ht
  · refine .inl ⟨m, more, hp, hr, hs, by simpa using hc, ?_⟩
    subst ht
    split
    · exact .inl ⟨‹_›, rfl⟩
    · exact .inr rfl
  · exact .inr ht

/-- The session judgement: refused with an answer, or on with the owner's session (R144). -/
theorem State.whenOwner_cases (s : State) (m : Mgt) (f : Session → State) :
    (s.session = none ∧ s.whenOwner m f = s.finish m .noSession [])
      ∨ (∃ x, s.session = some x ∧ x.owner ≠ m.port ∧ s.whenOwner m f = s.finish m .sessionHeld [])
      ∨ ∃ x, s.session = some x ∧ x.owner = m.port ∧ s.whenOwner m f = f x := by
  unfold State.whenOwner
  split
  · exact .inl ⟨‹_›, rfl⟩
  · rename_i x hx
    split
    · exact .inr (.inr ⟨x, hx, ‹_›, rfl⟩)
    · exact .inr (.inl ⟨x, hx, ‹_›, rfl⟩)

/-- A part of a RESTART: taken while it is due, else nothing. -/
theorem State.whenRestarting_cases {s t : State} {due : RestartRun → Bool}
    {f : RestartRun → State → State} (h : s.whenRestarting due f = .next t) :
    (∃ r, s.phase = .running ∧ s.restart = some r ∧ due r = true ∧ t = f r s) ∨ t = s := by
  unfold State.whenRestarting State.whenRunning at h
  split at h
  · dsimp only at h
    split at h
    · rename_i r hr
      split at h
      · simp only [Host.Outcome.next.injEq] at h
        exact .inl ⟨r, ‹_›, hr, ‹_›, h.symm⟩
      · simp_all
    · simp_all
  · simp_all
  · simp_all

/-! ## Free orders -/

/-- A free order leaves out no claim and makes none twice. -/
theorem freeOrder_perm {α : Type} (n : Nat) (cs : List α) : (freeOrder n cs).Perm cs := by
  induction cs with
  | nil => exact .refl _
  | cons c cs ih =>
    have hlen : (freeOrder n cs).length = cs.length := ih.length_eq
    refine (List.perm_insertIdx _ _ ?_).trans (ih.cons c)
    rw [hlen]
    exact Nat.le_of_lt_succ (Nat.mod_lt _ (Nat.succ_pos _))

@[simp] theorem State.inSomeOrder_nil (s : State) : s.inSomeOrder [] = s := rfl

@[simp] theorem State.inSomeOrder_one (s : State) (c : State → State) : s.inSomeOrder [c] = c s := rfl

/-- Claims are taken one after another, in some order of them. -/
theorem State.inSomeOrder_cases (s : State) (claims : List (State → State)) :
    ∃ (order : List (State → State)) (n : Nat), order.Perm claims
      ∧ s.inSomeOrder claims = order.foldl (fun t c => c t) { s with choices := n } := by
  match claims with
  | [] => exact ⟨[], s.choices, .refl _, rfl⟩
  | [c] => exact ⟨[c], s.choices, .refl _, rfl⟩
  | c :: d :: more => exact ⟨_, s.choices + 1, freeOrder_perm s.choices _, rfl⟩

/-- What every claim of a list keeps, the claims taken in that order keep. -/
theorem foldl_claims_keep {P : State → Prop} (claims : List (State → State))
    (keep : ∀ c ∈ claims, ∀ t, P t → P (c t)) : ∀ s, P s → P (claims.foldl (fun t c => c t) s) := by
  induction claims with
  | nil => exact fun _ h => h
  | cons c cs ih =>
    exact fun s h => ih (fun d hd => keep d (List.mem_cons_of_mem _ hd)) _ (keep c List.mem_cons_self s h)

/-- What every claim keeps, whatever the counter of free orders, the claims taken together keep. -/
theorem State.inSomeOrder_keeps {P : State → Prop} {s : State} {claims : List (State → State)}
    (start : ∀ n, P { s with choices := n }) (keep : ∀ c ∈ claims, ∀ t, P t → P (c t)) :
    P (s.inSomeOrder claims) := by
  obtain ⟨order, n, hperm, heq⟩ := s.inSomeOrder_cases claims
  rw [heq]
  exact foldl_claims_keep order (fun c hc => keep c (hperm.mem_iff.mp hc)) _ (start n)

/-- Two claims are taken in one order or in the other. -/
theorem State.inSomeOrder_two (s : State) (c d : State → State) :
    ∃ n, s.inSomeOrder [c, d] = d (c { s with choices := n })
      ∨ s.inSomeOrder [c, d] = c (d { s with choices := n }) := by
  obtain ⟨order, n, hperm, heq⟩ := s.inSomeOrder_cases [c, d]
  refine ⟨n, ?_⟩
  rw [heq]
  obtain ⟨a, b, rfl⟩ := List.length_eq_two.mp (hperm.length_eq.trans rfl)
  rcases List.perm_pair.mp hperm.symm with h | h
  · obtain ⟨rfl, rfl⟩ := by simpa using h
    exact .inl rfl
  · obtain ⟨rfl, rfl⟩ := by simpa using h
    exact .inr rfl

/-! ## Output units -/

/-- The choice moves nothing between the sections (R130). -/
@[simp] theorem OutputUnit.choose_answers (now : Nat) (o : OutputUnit) :
    (o.choose now).answers = o.answers := by
  unfold OutputUnit.choose; split <;> [rfl; (split <;> [rfl; rfl; rfl; (split <;> rfl)])]

@[simp] theorem OutputUnit.choose_events (now : Nat) (o : OutputUnit) :
    (o.choose now).events = o.events := by
  unfold OutputUnit.choose; split <;> [rfl; (split <;> [rfl; rfl; rfl; (split <;> rfl)])]

@[simp] theorem OutputUnit.choose_reserved (now : Nat) (o : OutputUnit) :
    (o.choose now).reserved = o.reserved := by
  unfold OutputUnit.choose; split <;> [rfl; (split <;> [rfl; rfl; rfl; (split <;> rfl)])]

@[simp] theorem OutputUnit.choose_gap (now : Nat) (o : OutputUnit) : (o.choose now).gap = o.gap := by
  unfold OutputUnit.choose; split <;> [rfl; (split <;> [rfl; rfl; rfl; (split <;> rfl)])]

/-- A BUSY transmitter makes no choice. -/
theorem OutputUnit.choose_busy {now : Nat} {o : OutputUnit} {x : Sending} (h : o.sending = some x) :
    o.choose now = o := by simp [OutputUnit.choose, h]

@[simp] theorem OutputUnit.choose_handed (now : Nat) (o : OutputUnit) :
    (o.choose now).handed = o.handed := by
  unfold OutputUnit.choose; split <;> [rfl; (split <;> [rfl; rfl; rfl; (split <;> rfl)])]

@[simp] theorem OutputUnit.choose_handedBack (now : Nat) (o : OutputUnit) :
    (o.choose now).handedBack = o.handedBack := by
  unfold OutputUnit.choose; split <;> [rfl; (split <;> [rfl; rfl; rfl; (split <;> rfl)])]

/-- A run of none places nothing (R102). -/
@[simp] theorem OutputUnit.place_nil (now : Nat) (o : OutputUnit) : o.place now [] = o := rfl

/-- A placement: what was handed on earlier and then the run join the tail, their reservations end, and
the choice is made (R128). -/
theorem OutputUnit.place_of_ne (now : Nat) {run : List Telegram} (h : run ≠ []) (o : OutputUnit) :
    o.place now run = OutputUnit.choose now
      { o with
        handed := []
        answers := o.answers ++ (o.handed ++ run)
        reserved := o.reserved - (o.handed ++ run).length } := by
  cases run with
  | nil => exact absurd rfl h
  | cons t rest => rfl

/-- A placement leaves the event section and the gap mark as they are. -/
@[simp] theorem OutputUnit.place_events (now : Nat) (run : List Telegram) (o : OutputUnit) :
    (o.place now run).events = o.events := by
  cases run <;> simp [OutputUnit.place, OutputUnit.join]

@[simp] theorem OutputUnit.place_handedBack (now : Nat) (run : List Telegram) (o : OutputUnit) :
    (o.place now run).handedBack = o.handedBack := by
  cases run <;> simp [OutputUnit.place, OutputUnit.join]

@[simp] theorem OutputUnit.place_gap (now : Nat) (run : List Telegram) (o : OutputUnit) :
    (o.place now run).gap = o.gap := by
  cases run <;> simp [OutputUnit.place, OutputUnit.join]

/-- The placing of the answer handed on first (R60, R128). -/
theorem OutputUnit.placeOldest_of_cons (now : Nat) {o : OutputUnit} {t : Telegram} {rest : List Telegram}
    (h : o.handed = t :: rest) :
    o.placeOldest now = OutputUnit.choose now
      { o with handed := rest, answers := o.answers ++ [t], reserved := o.reserved - 1 } := by
  simp [OutputUnit.placeOldest, OutputUnit.join, h]

/-- No answer is handed on and not placed: nothing to place. -/
theorem OutputUnit.placeOldest_of_nil (now : Nat) {o : OutputUnit} (h : o.handed = []) :
    o.placeOldest now = o := by
  simp [OutputUnit.placeOldest, h]

/-- A release ends one reservation that was handed back, or none when none was (R60). -/
theorem OutputUnit.releaseOne_eq (o : OutputUnit) :
    o.releaseOne = if o.handedBack = 0 then o
      else { o with handedBack := o.handedBack - 1, reserved := o.reserved - 1 } := by
  unfold OutputUnit.releaseOne
  split <;> rename_i h <;> simp [h]

/-- A telegram that joins the event section (R129). -/
@[simp] theorem OutputUnit.placeEvent_answers (now : Nat) (t : Telegram) (o : OutputUnit) :
    (o.placeEvent now t).answers = o.answers := by simp [OutputUnit.placeEvent]

@[simp] theorem OutputUnit.placeEvent_events (now : Nat) (t : Telegram) (o : OutputUnit) :
    (o.placeEvent now t).events = o.events ++ [t] := by simp [OutputUnit.placeEvent]

@[simp] theorem OutputUnit.placeEvent_reserved (now : Nat) (t : Telegram) (o : OutputUnit) :
    (o.placeEvent now t).reserved = o.reserved := by simp [OutputUnit.placeEvent]

@[simp] theorem OutputUnit.placeEvent_handed (now : Nat) (t : Telegram) (o : OutputUnit) :
    (o.placeEvent now t).handed = o.handed := by simp [OutputUnit.placeEvent]

@[simp] theorem OutputUnit.placeEvent_handedBack (now : Nat) (t : Telegram) (o : OutputUnit) :
    (o.placeEvent now t).handedBack = o.handedBack := by simp [OutputUnit.placeEvent]

@[simp] theorem OutputUnit.placeEvent_gap (now : Nat) (t : Telegram) (o : OutputUnit) :
    (o.placeEvent now t).gap = o.gap := by simp [OutputUnit.placeEvent]

/-! ### The two ports' output units and notice states -/

@[simp] theorem State.output_withOutput_same (s : State) (p : Port) (o : OutputUnit) :
    (s.withOutput p o).output p = o := by simp [State.output]

@[simp] theorem State.output_withOutput_other (s : State) (p : Port) (o : OutputUnit) :
    (s.withOutput p o).output p.other = s.output p.other := by simp [State.output]

@[simp] theorem State.output_withNotice (s : State) (p q : Port) (n : NoticeState) :
    (s.withNotice p n).output q = s.output q := rfl

@[simp] theorem State.notice_withNotice_same (s : State) (p : Port) (n : NoticeState) :
    (s.withNotice p n).notice p = n := by simp [State.notice]

@[simp] theorem State.notice_withNotice_other (s : State) (p : Port) (n : NoticeState) :
    (s.withNotice p n).notice p.other = s.notice p.other := by simp [State.notice]

@[simp] theorem State.notice_withOutput (s : State) (p q : Port) (o : OutputUnit) :
    (s.withOutput p o).notice q = s.notice q := rfl

@[simp] theorem State.output_answer_same (s : State) (p : Port) (run : List Telegram) :
    (s.answer p run).output p = (s.output p).place s.now run := by simp [State.answer]

@[simp] theorem State.output_answer_other (s : State) (p : Port) (run : List Telegram) :
    (s.answer p run).output p.other = s.output p.other := by simp [State.answer]

/-- A run of none changes nothing (R102). -/
@[simp] theorem State.answer_nil (s : State) (p : Port) : s.answer p [] = s := by
  simp [State.answer, State.withOutput, State.output]

@[simp] theorem State.notice_answer (s : State) (p q : Port) (run : List Telegram) :
    (s.answer p run).notice q = s.notice q := rfl

/-! ## The notice unit -/

/-- What an offer of an NTC leaves: answers and reservations, the flags and details, and the other port,
are as they were (R137). -/
theorem State.offerNtc_keeps (s : State) (p : Port) :
    ((s.offerNtc p).output p).answers = (s.output p).answers
      ∧ ((s.offerNtc p).output p).reserved = (s.output p).reserved
      ∧ ((s.offerNtc p).output p).handed = (s.output p).handed
      ∧ ((s.offerNtc p).output p).handedBack = (s.output p).handedBack
      ∧ ((s.offerNtc p).output p).gap = (s.output p).gap
      ∧ (s.offerNtc p).output p.other = s.output p.other
      ∧ (s.offerNtc p).notice p.other = s.notice p.other
      ∧ ((s.offerNtc p).notice p).flags = (s.notice p).flags
      ∧ ((s.offerNtc p).notice p).station = (s.notice p).station
      ∧ ((s.offerNtc p).notice p).group = (s.notice p).group
      ∧ ((s.offerNtc p).notice p).cause = (s.notice p).cause
      ∧ ((s.offerNtc p).notice p).startSlot = (s.notice p).startSlot
      ∧ ((s.offerNtc p).notice p).fallback = (s.notice p).fallback := by
  unfold State.offerNtc
  dsimp only
  split
  · split <;> simp [State.startRepeat]
  · simp

/-- An offer that is made starts the repeat timer (R137). -/
theorem State.offerNtc_timer {s : State} {p : Port} (h : s.announces p = true) :
    ((s.offerNtc p).notice p).timer = some (s.now + msTicks s.settings.noticeRepeat) := by
  unfold State.offerNtc
  dsimp only
  rw [if_pos h]
  split <;> simp [State.startRepeat, State.inMs]

/-- What a request leaves: its flag pending, its detail written, the other port and every answer as they
were (R135). -/
theorem State.request_keeps (s : State) (f : NoticeFlag) (d : Detail) (p : Port) :
    ((s.request f d p).output p).answers = (s.output p).answers
      ∧ ((s.request f d p).output p).reserved = (s.output p).reserved
      ∧ ((s.request f d p).output p).handed = (s.output p).handed
      ∧ ((s.request f d p).output p).handedBack = (s.output p).handedBack
      ∧ ((s.request f d p).output p).gap = (s.output p).gap
      ∧ (s.request f d p).output p.other = s.output p.other
      ∧ (s.request f d p).notice p.other = s.notice p.other
      ∧ ((s.request f d p).notice p).flags = (s.notice p).flags ||| BitVec.twoPow 10 f.bit
      ∧ ((s.request f d p).notice p).station = ((s.notice p).note d).station
      ∧ ((s.request f d p).notice p).group = ((s.notice p).note d).group
      ∧ ((s.request f d p).notice p).cause = ((s.notice p).note d).cause
      ∧ ((s.request f d p).notice p).startSlot = ((s.notice p).note d).startSlot
      ∧ ((s.request f d p).notice p).fallback = ((s.notice p).note d).fallback := by
  have hnote : ((s.notice p).note d).flags = (s.notice p).flags := by cases d <;> rfl
  unfold State.request
  dsimp only
  split
  · rename_i hin
    have hor : (s.notice p).flags ||| BitVec.twoPow 10 f.bit = (s.notice p).flags := by
      rw [hnote] at hin
      apply BitVec.eq_of_getLsbD_eq
      intro i hi
      by_cases h : f.bit = i
      · subst h
        simpa [BitVec.getLsbD_or, NoticeFlag.isIn] using fun _ => hin
      · simp [BitVec.getLsbD_or, BitVec.getLsbD_twoPow, h]
    simp [hnote, hor]
  · have hraise : ∀ n : NoticeState, n.flags = (s.notice p).flags →
        (n.raise f).flags = (s.notice p).flags ||| BitVec.twoPow 10 f.bit := by
      intro n hn
      simp [NoticeState.raise, hn]
    have hflags := hraise _ hnote
    split
    · have h := State.offerNtc_keeps (s.withNotice p (((s.notice p).note d).raise f)) p
      simp only [State.notice_withNotice_same, State.notice_withNotice_other,
        State.output_withNotice, hflags] at h
      exact h
    · simp [NoticeState.raise, hnote]

/-! ## Lease groups, stations and meters by number -/

theorem State.lease_withLease (s : State) (g k : Nat) (l : Option Lease) :
    (s.withLease g l).lease k = if k = g ∧ 1 ≤ g ∧ g ≤ 16 then l else s.lease k := by
  cases g with
  | zero => simp [State.withLease]
  | succ i =>
    cases k with
    | zero => simp [State.lease]
    | succ j =>
      simp only [State.withLease, State.lease, Vector.getElem?_setIfInBounds]
      by_cases hij : i = j
      · subst hij
        by_cases hi : i < 16
        · simp [hi, Nat.succ_le_of_lt hi]
        · simp [hi]
      · have : j ≠ i := fun h => hij h.symm
        simp [hij, this]

theorem State.station_withStation (s : State) (n k : Nat) (r : Station) :
    (s.withStation n r).station k = if k = n ∧ 1 ≤ n ∧ n ≤ 62 then r else s.station k := by
  cases n with
  | zero => simp [State.withStation]
  | succ i =>
    cases k with
    | zero => simp [State.station]
    | succ j =>
      simp only [State.withStation, State.station, Vector.getElem?_setIfInBounds]
      by_cases hij : i = j
      · subst hij
        by_cases hi : i < 62
        · simp [hi, Nat.succ_le_of_lt hi]
        · simp [hi]
      · have : j ≠ i := fun h => hij h.symm
        simp [hij, this]

/-- All records changed alike, a station number without a record standing for a fresh one. -/
theorem State.station_of_map {s t : State} {f : Station → Station} (h : t.stations = s.stations.map f)
    (hf : f .fresh = .fresh) (n : Nat) : t.station n = f (s.station n) := by
  cases n with
  | zero => simp [State.station, hf]
  | succ k =>
    simp only [State.station, h, Vector.getElem?_map]
    rcases s.stations[k]? with _ | r <;> simp [hf]

/-- A table of free groups frees every group. -/
theorem State.lease_of_free {t : State} (h : t.leases = Vector.replicate 16 none) (g : Nat) :
    t.lease g = none := by
  cases g with
  | zero => rfl
  | succ k =>
    simp only [State.lease, h, Vector.getElem?_replicate]
    split <;> rfl

/-- A table of fresh records. -/
theorem State.station_of_fresh {t : State} (h : t.stations = Vector.replicate 62 .fresh) (n : Nat) :
    t.station n = .fresh := by
  cases n with
  | zero => rfl
  | succ k =>
    simp only [State.station, h, Vector.getElem?_replicate]
    split <;> rfl

theorem State.meter_withMeter (s : State) (n k : Nat) (m : Meter) :
    (s.withMeter n m).meter k = if k = n ∧ 1 ≤ n ∧ n ≤ 32 then some m else s.meter k := by
  cases n with
  | zero => simp [State.withMeter]
  | succ i =>
    cases k with
    | zero => simp [State.meter]
    | succ j =>
      simp only [State.withMeter, State.meter, Vector.getElem?_setIfInBounds]
      by_cases hij : i = j
      · subst hij
        by_cases hi : i < 32
        · simp [hi, Nat.succ_le_of_lt hi]
        · simp [hi]
      · have : j ≠ i := fun h => hij h.symm
        simp [hij, this]

/-! ## The rule table -/

/-- What a lookup finds stands in the bucket of the key and holds the key (R39). -/
theorem Table.lookup_some {t : Table} {k : Key} {w : Fin 4} {e : RuleEntry}
    (h : t.lookup k = some (w, e)) : t[k.bucket][w] = some e ∧ e.key = k := by
  simp only [Table.lookup, Bucket.find, List.findSome?_eq_some_iff] at h
  obtain ⟨_, v, _, _, hv, _⟩ := h
  split at hv
  · split at hv
    · simp only [Option.some.injEq, Prod.mk.injEq] at hv
      obtain ⟨rfl, rfl⟩ := hv
      exact ⟨‹_›, ‹_›⟩
    · simp at hv
  · simp at hv

/-- A lookup that finds nothing: no way of the key's bucket holds the key (R39). -/
theorem Table.lookup_none {t : Table} {k : Key} :
    t.lookup k = none ↔ ∀ (w : Fin 4) (e : RuleEntry), t[k.bucket][w] = some e → e.key ≠ k := by
  simp only [Table.lookup, Bucket.find, List.findSome?_eq_none_iff]
  constructor
  · intro h w e he hk
    have hw : w ∈ ([0, 1, 2, 3] : List (Fin 4)) := by fin_cases w <;> simp
    have := h w hw
    rw [he] at this
    simp [hk] at this
  · intro h w _
    split
    · rename_i e he
      simp [h w e he]
    · rfl

/-- One way replaced, every other way as it was. -/
theorem Table.setWay_get (t : Table) (b c : Fin 128) (w v : Fin 4) (x : Option RuleEntry) :
    (t.setWay b w x)[c][v] = if c = b ∧ v = w then x else t[c][v] := by
  simp only [Table.setWay, Fin.getElem_fin, Vector.getElem_set]
  by_cases hb : b.val = c.val
  · have hb' : c = b := Fin.ext hb.symm
    subst hb'
    by_cases hw : w.val = v.val
    · have hw' : v = w := Fin.ext hw.symm
      subst hw'
      simp
    · have hw' : v ≠ w := fun h => hw (by rw [h])
      simp [hw, hw']
  · have hb' : c ≠ b := fun h => hb (by rw [h])
    simp [hb, hb']

/-- The table mapped, way by way. -/
theorem Table.mapEntries_get (t : Table) (f : RuleEntry → Option RuleEntry) (b : Fin 128) (w : Fin 4) :
    (t.mapEntries f)[b][w] = (t[b][w]).bind f := by
  simp [Table.mapEntries]

end Sys2Proof.Machine
end

