-- ==== Sys2Proof/Laws/Terms.lean ====
section
/-! SUPPORT. What the operations behind the statements do, in the terms of Safety.lean: the frame of a
management operation, the session judgement, relay tags, repeats, and the trying of a change list. -/

namespace Sys2Proof.Machine

/-! ## Claims of one happening -/

/-- Claims taken in a free order are taken in some order of them, each once. -/
theorem State.inSomeOrder_taken (s : State) (claims : List (State → State)) :
    s.TakenInSomeOrder claims (s.inSomeOrder claims) := s.inSomeOrder_cases claims

/-- A claim that leaves things as they are may be left out. -/
theorem State.TakenInSomeOrder.with_idle {s t : State} {claims : List (State → State)}
    {claim : State → State} (idle : ∀ u, claim u = u) (h : s.TakenInSomeOrder claims t) :
    s.TakenInSomeOrder (claim :: claims) t := by
  obtain ⟨order, n, hperm, rfl⟩ := h
  exact ⟨claim :: order, n, hperm.cons claim, by simp [idle]⟩

/-- The claims of a run are its one placement, or none. -/
theorem State.TakenInSomeOrder.runClaim_append {s t : State} {p : Port} {run : List Telegram}
    {claims : List (State → State)} (h : s.TakenInSomeOrder (runClaim p run ++ claims) t) :
    s.TakenInSomeOrder (State.answer p run :: claims) t := by
  unfold runClaim at h
  split at h
  · rename_i hr
    refine State.TakenInSomeOrder.with_idle (fun u => ?_) h
    obtain rfl : run = [] := by simpa using hr
    exact u.answer_nil p
  · exact h

/-- An answer does not reach the count of free orders. -/
theorem State.answer_choices_comm (s : State) (p : Port) (run : List Telegram) (n : Nat) :
    State.answer p run { s with choices := n } = { State.answer p run s with choices := n } := rfl

/-- An offer of an NTC does not reach the count of free orders. -/
theorem State.offerNtc_choices_comm (s : State) (p : Port) (n : Nat) :
    State.offerNtc { s with choices := n } p = { s.offerNtc p with choices := n } := by
  by_cases ha : s.announces p = true
  · by_cases hl : (s.output p).events.length < Config.eventPlaces
    · have hl' : ((s.startRepeat p).output p).events.length < Config.eventPlaces := hl
      have ha' : State.announces { s with choices := n } p = true := ha
      have hl'' : ((State.startRepeat { s with choices := n } p).output p).events.length
          < Config.eventPlaces := hl
      simp only [State.offerNtc, if_pos ha, if_pos hl', if_pos ha', if_pos hl'']
      rfl
    · have hl' : ¬((s.startRepeat p).output p).events.length < Config.eventPlaces := hl
      have ha' : State.announces { s with choices := n } p = true := ha
      have hl'' : ¬((State.startRepeat { s with choices := n } p).output p).events.length
          < Config.eventPlaces := hl
      simp only [State.offerNtc, if_pos ha, if_neg hl', if_pos ha', if_neg hl'']
      rfl
  · have ha' : ¬State.announces { s with choices := n } p = true := ha
    simp only [State.offerNtc, if_neg ha, if_neg ha']

/-- A notice request does not reach the count of free orders. -/
theorem State.request_choices_comm (s : State) (f : NoticeFlag) (d : Detail) (p : Port) (n : Nat) :
    State.request f d p { s with choices := n } = { State.request f d p s with choices := n } := by
  have hs : (State.notice { s with choices := n } p) = s.notice p := rfl
  have hm : (State.mask { s with choices := n } p) = s.mask p := rfl
  simp only [State.request, hs, hm]
  by_cases hi : f.isIn ((s.notice p).note d).flags = true
  · simp only [if_pos hi]
    rfl
  · simp only [if_neg hi]
    by_cases he : f.isIn (s.mask p) = true
    · simp only [if_pos he]
      exact State.offerNtc_choices_comm (s.withNotice p (((s.notice p).note d).raise f)) p n
    · simp only [if_neg he]
      rfl

/-! ## Management operations -/

/-- The operation that executes stands in the first slot of the running relay. -/
theorem State.Executes.slots {s : State} {m : Mgt} (h : s.Executes m) :
    s.phase = .running ∧ s.restart = none ∧ ∃ more, s.slots = m :: more := by
  obtain ⟨hp, hr, hs⟩ := h
  exact ⟨hp, hr, List.head?_eq_some_iff.mp hs⟩

/-- An answer of the model is the answer written with its raw code. -/
theorem State.finish_eq_answered (s : State) (m : Mgt) (st : MgtStatus) (data : List Byte) :
    s.finish m st data = s.answered m st.code data := rfl

/-- The end of the operation that executes: its length is judged first (R9). -/
theorem State.whenOp_executes {s : State} {m : Mgt} {code : Byte} (h : s.Executes m)
    (hc : m.code = code) (len : Nat) (f : Mgt → State → State) :
    s.whenOp code len f
      = .next (if m.data.length = len then f m s else s.answered m 0x99 []) := by
  obtain ⟨hp, hr, _, hs⟩ := h.slots
  exact State.whenOp_head hp hr hs hc len f

/-- No session is open (R144). -/
theorem State.whenOwner_none {s : State} (m : Mgt) (f : Session → State) (h : s.session = none) :
    s.whenOwner m f = s.answered m 0x90 [] := by
  simp only [State.whenOwner, h]
  rfl

/-- The other port owns the session (R144). -/
theorem State.whenOwner_other {s : State} {m : Mgt} {x : Session} (f : Session → State)
    (h : s.session = some x) (ho : x.owner = m.port.other) : s.whenOwner m f = s.answered m 0x91 [] := by
  have hne : x.owner ≠ m.port := by rw [ho]; exact Port.other_ne _
  simp only [State.whenOwner, h, if_neg hne]
  rfl

/-- The origin port owns the session (R144). -/
theorem State.whenOwner_owns {s : State} {m : Mgt} {x : Session} (f : Session → State)
    (h : s.Owns m x) : s.whenOwner m f = f x := by
  simp only [State.whenOwner, h.1, if_pos h.2]

/-! ## Relay tags (R109) -/

/-- Among `n` candidates from `t` on, the first that no entry holds; `t` + `n` when all are held. -/
theorem allocTag_cases (entries : List Entry) : ∀ (n : Nat) (t : Byte), ∃ k ≤ n,
    allocTag entries n t = t + BitVec.ofNat 8 k
      ∧ (∀ j < k, ∃ e ∈ entries, e.relayTag = t + BitVec.ofNat 8 j)
      ∧ (k < n → ∀ e ∈ entries, e.relayTag ≠ t + BitVec.ofNat 8 k)
  | 0, t => ⟨0, Nat.le_refl 0, by simp [allocTag], fun _ h => absurd h (Nat.not_lt_zero _),
      fun h => absurd h (Nat.not_lt_zero _)⟩
  | n + 1, t => by
    unfold allocTag
    by_cases h : entries.any (fun e => decide (e.relayTag = t)) = true
    · obtain ⟨k, hk, htag, hheld, hfree⟩ := allocTag_cases entries n (t + 1)
      have shift : ∀ j, t + 1 + BitVec.ofNat 8 j = t + BitVec.ofNat 8 (j + 1) := by
        intro j
        rw [BitVec.add_assoc]
        congr 1
        apply BitVec.eq_of_toNat_eq
        simp [BitVec.toNat_add, Nat.add_comm]
      rw [if_pos h]
      refine ⟨k + 1, Nat.succ_le_succ hk, by rw [htag, shift], fun j hj => ?_, fun hlt => ?_⟩
      · cases j with
        | zero => simpa using h
        | succ j => rw [← shift]; exact hheld j (Nat.lt_of_succ_lt_succ hj)
      · rw [← shift]; exact hfree (Nat.lt_of_succ_lt_succ hlt)
    · rw [if_neg h]
      refine ⟨0, Nat.zero_le _, by simp, fun _ hj => absurd hj (Nat.not_lt_zero _), fun _ e he => ?_⟩
      simpa using fun ht => h (List.any_eq_true.mpr ⟨e, he, by simpa using ht⟩)

/-! ## Screening -/

/-- Check 1 compares triples (R61). -/
theorem State.isDuplicate_iff (s : State) (p : Port) (t : Telegram) :
    s.isDuplicate p t = true ↔ s.repeats p t := by
  simp [State.isDuplicate, State.repeats, and_assoc]

/-! ## The change list (R153) -/

/-- The protection test (R44). -/
theorem protectionPasses_iff (role : Role) (lock : Bool) :
    protectionPasses role lock = true ↔ role = .integrator ∧ lock = false := by
  simp [protectionPasses]

/-- Trying the first item, then the rest. -/
theorem Working.tryAll_cons (w : Working) (role : Role) (lock : Bool) (item : ListItem)
    (items : List ListItem) :
    w.tryAll role lock (item :: items)
      = (w.tryItem role lock item).bind fun w' => w'.tryAll role lock items := rfl

/-- Items that all pass. -/
theorem Working.tryItems_of_ok {role : Role} {lock : Bool} : ∀ {items : List ListItem} {w w' : Working}
    (i : Nat), w.tryAll role lock items = .ok w' → Working.tryItems role lock i w items = .ok w'
  | [], _, _, _, h => by cases h; rfl
  | item :: items, w, w', i, h => by
    rw [Working.tryAll_cons] at h
    unfold Working.tryItems
    cases hi : w.tryItem role lock item with
    | error r => rw [hi] at h; cases h
    | ok u => rw [hi] at h; exact Working.tryItems_of_ok (i + 1) h

/-- The first item that fails stops the trying, with its index. -/
theorem Working.tryItems_of_error {role : Role} {lock : Bool} {item : ListItem} {after : List ListItem}
    {reason : ApplyReason} : ∀ {before : List ListItem} {w w' : Working} (i : Nat),
    w.tryAll role lock before = .ok w' → w'.tryItem role lock item = .error reason →
      Working.tryItems role lock i w (before ++ item :: after) = .error (i + before.length, reason)
  | [], w, w', i, h, he => by
    cases h
    simp only [List.nil_append, Working.tryItems, he, List.length_nil, Nat.add_zero]
  | first :: before, w, w', i, h, he => by
    rw [Working.tryAll_cons] at h
    simp only [List.cons_append, Working.tryItems]
    cases hi : w.tryItem role lock first with
    | error r => rw [hi] at h; cases h
    | ok u =>
      rw [hi] at h
      simp only [Working.tryItems_of_error (i + 1) h he, List.length_cons, Nat.add_assoc,
        Nat.add_comm 1]

end Sys2Proof.Machine
end

