-- ==== Sys2Proof/WellFormed.lean ====
section
/-! DEFINITION. Which commands name something the relay has: a station 1 to 62 (R4), a block up to
4095 (R4), a meter 1 to 32 (R72), a lease group 1 to 16 (R77). An ill-formed command names a timer
or a key that does not exist, so its happening cannot occur (log 4). -/

namespace Sys2Proof

/-- The check, command by command. -/
def Instr.wellFormed : Instr → Bool
  | .hitCountRaise station block => 1 ≤ station.toNat && station.toNat ≤ 62 && block ≤ 4095
  | .holdTimerExpiry station => 1 ≤ station && station ≤ 62
  | .meterRefill meter => 1 ≤ meter && meter ≤ 32
  | .leaseExpiry group => 1 ≤ group && group ≤ 16
  | .powerOn | .powerFail | .resetNFall | .pinReset | .startUpLoadEnd => true
  | .framingError _ _ | .frameGapPause _ | .characterReceived _ _ => true
  | .controlTelegram _ _ | .fieldTelegram _ | .silenceTimerExpiry _ => true
  | .leaseReleaseOnLinkDown _ | .sessionEndOnLinkDown _ | .sessionIdleExpiry => true
  | .screening _ | .dispatch | .fieldTransmissionEnd | .deadline _ | .isolatedPurge => true
  | .portSendEnd _ | .noticeRepeatExpiry _ => true
  | .unknownOp | .echo | .sessionOpen | .sessionClose | .readConfig | .stageConfig => true
  | .stageAdd | .stageModify | .stageDelete | .listRead | .apply | .discard => true
  | .commit | .setLock | .eraseProtected | .readEntry | .readBucket | .readStation => true
  | .readCounters | .clearCounters | .leaseTake | .leaseRenew | .leaseRelease => true
  | .leaseStatus | .noticeAck | .setMode | .readStore | .restart => true
  | .restartHoldAndLeasePart | .restartTransactionPart | .restartNoticePart _ => true
  | .restartAnswer | .storeWriteEnd _ | .storeLimitExpiry => true

end Sys2Proof
end

