-- ==== Sys2Proof/Tests/Slice0.lean ====
section
/-! SUPPORT. Checks of our own work: what WellFormed refuses, values the spec works out, and for every
statement with hypotheses a state and operands that meet them, at the ends of their ranges. -/

namespace Sys2Proof.Tests

open Sys2Proof.Machine

set_option Elab.async false

/-! ## WellFormed -/

theorem test_wellFormed_refuses_station_0 : (Instr.hitCountRaise 0 18).wellFormed = false := by decide
theorem test_wellFormed_refuses_station_63 : (Instr.hitCountRaise 63 18).wellFormed = false := by decide
theorem test_wellFormed_refuses_block_4096 : (Instr.hitCountRaise 5 4096).wellFormed = false := by decide
theorem test_wellFormed_takes_block_4095 : (Instr.hitCountRaise 62 4095).wellFormed = true := by decide
theorem test_wellFormed_refuses_hold_timer_63 : (Instr.holdTimerExpiry 63).wellFormed = false := by decide
theorem test_wellFormed_refuses_hold_timer_0 : (Instr.holdTimerExpiry 0).wellFormed = false := by decide
theorem test_wellFormed_refuses_meter_33 : (Instr.meterRefill 33).wellFormed = false := by decide
theorem test_wellFormed_refuses_meter_0 : (Instr.meterRefill 0).wellFormed = false := by decide
theorem test_wellFormed_refuses_group_17 : (Instr.leaseExpiry 17).wellFormed = false := by decide
theorem test_wellFormed_refuses_group_0 : (Instr.leaseExpiry 0).wellFormed = false := by decide

/-- No row of the table has bits (log 20). -/
theorem test_no_word_spells_a_command : decodeTableWord 16 0x1234 = none := rfl

/-! ## Small states -/

/-- The state a command leaves. -/
def after (o : Host.Outcome State Fault Refusal) : State :=
  match o with
  | .next t => t
  | .fault _ | .refused _ => State.reset

/-- A running relay with nothing placed, nothing pending and the default configuration. -/
def calm : State := { State.reset with outputs := .both .empty, notices := .both .quiet }

/-- The relay with one reservation of Port A held by an MGT in the first slot. -/
def asked (s : State) (code : Byte) (data : List Byte) : State :=
  { s with slots := [⟨.a, 7, 9, code, data⟩], outputs := s.outputs.set .a { s.output .a with reserved := 1 } }

/-- A session of Port A. -/
def sessionA (role : Role) (list : List ListItem) : Session := ⟨.a, role, list, 1920000000⟩

/-- Rule (5,18) of spec 11: both ports READ and WRITE, group 1, class 2, limits -1000 to 1000, route BOTH. -/
def drive : RuleEntry where
  station := 5
  block := 18
  prot := true
  limitPresent := true
  ops := .both ⟨true, true, false⟩
  group := 1
  meter := 0
  timeoutClass := 2
  route := .both
  limitLow := 0xFFFFFC18
  limitHigh := 1000
  hits := 0

/-- Rule (20,0) of spec 11. -/
def clamp : RuleEntry :=
  { drive with station := 20, block := 0, limitPresent := false, limitLow := 0, limitHigh := 0, group := 0,
               timeoutClass := 0, route := .a }

/-- An unprotected rule with every field at the end of its range. -/
def sensor : RuleEntry :=
  { drive with station := 62, block := 4095, prot := false, group := 16, meter := 32, timeoutClass := 3,
               route := .none, ops := .both ⟨true, true, true⟩ }

/-- A table with one entry at a way. -/
def tableWith (e : RuleEntry) (w : Fin 4) : Table := Table.blank.setWay e.key.bucket w (some e)

/-- A held READ of Port A to station 5. -/
def readA : HeldReq := ⟨.a, 7, 0x32, 5, 0x0123, .read, [], false, 2, 1⟩

/-- A held WRITE of Port A to station 5 under group 1. -/
def writeA : HeldReq := ⟨.a, 7, 0x31, 5, 0x0123, .write, [0, 0, 0, 1], false, 2, 1⟩

/-- A held WRITE of Port B to station 6 under group 16. -/
def writeB : HeldReq := ⟨.b, 8, 0x60, 6, 0x0123, .write, [0, 0, 0, 1], true, 2, 16⟩

/-- A WAITING transaction of Port A at station 5. -/
def waitingA : Entry := ⟨75, 5, .a, 7, 0x30, 0x0123, 2, .waiting 300⟩

/-- The relay with receiver `l` holding all but the last byte of `t`. -/
def hearing (s : State) (l : Line) (t : Telegram) : State :=
  { s with rx := s.rx.set l ⟨.body t.bytes.dropLast, 0⟩ }

/-- The last check byte of `t`. -/
def lastOf (t : Telegram) : Byte := t.bytes.getLastD 0

/-- An RSP of station 5 to relay tag 75. -/
def rspOf5 : Telegram := ⟨.rsp, 0, 63, 5, 75, 0x0123, 0, [1]⟩

/-- An EVT of station 5 in block 18. -/
def evtOf5 : Telegram := ⟨.evt, 0, 63, 5, 1, 0x0123, 0, []⟩

/-- A REQ of master 7: a WRITE of 1000 to object 0x0123 of station 5. -/
def reqTo5 : Telegram := ⟨.req, 0, 5, 7, 0x40, 0x0123, 2, [0, 0, 3, 0xE8]⟩

/-! ## Values the spec works out -/

/-- R2's own check value. -/
theorem test_crc_check_value :
    crc [0x31, 0x32, 0x33, 0x34, 0x35, 0x36, 0x37, 0x38, 0x39] = 0x29B1 := by decide +kernel

/-- R4: object 0x0123 lies in block 18, with 0x012F but not 0x0130. -/
theorem test_block_of_object : blockOf 0x0123 = 18 ∧ blockOf 0x012F = 18 ∧ blockOf 0x0130 = 19 := by
  decide

/-- Spec 11.1: the buckets of (5,18), (6,9), (8,9) and (20,0). -/
theorem test_buckets_of_commissioning :
    (Key.mk 5 18).bucket = 63 ∧ (Key.mk 6 9).bucket = 63 ∧ (Key.mk 8 9).bucket = 81
      ∧ (Key.mk 20 0).bucket = 52 := by decide

/-- Spec 1.7: METER_7_SIZE is item 0x0107 and METER_32_PERIOD is item 0x0220. -/
theorem test_item_numbers :
    ConfigItem.ofNumber 0x0107 = some (.meterSize 6) ∧ ConfigItem.ofNumber 0x0220 = some (.meterPeriod 31)
      ∧ ConfigItem.ofNumber 0x0221 = none ∧ ConfigItem.ofNumber 0x0100 = none := by decide

/-- Spec 4.1: under limits -100 to 100, 0xFFFFFF9C passes, 0x65 is OUT_OF_RANGE, two bytes are BAD_LENGTH. -/
theorem test_limits :
    let e := { drive with limitLow := 0xFFFFFF9C, limitHigh := 100 }
    limitCheck e .write [0xFF, 0xFF, 0xFF, 0x9C] = none
      ∧ limitCheck e .write [0, 0, 0, 0x65] = some .outOfRange
      ∧ limitCheck e .write [0, 5] = some .badLength := by decide

/-- Spec 7.1: counter 254 with tags 254 and 0 held: 255 is next, and after it 1. -/
theorem test_relay_tags :
    allocTag [{ waitingA with relayTag := 254 }, { waitingA with relayTag := 0 }] 16 254 = 255
      ∧ allocTag [{ waitingA with relayTag := 254 }, { waitingA with relayTag := 0 },
          { waitingA with relayTag := 255 }] 16 0 = 1 := by decide

/-- Spec 11.1, first attempt: the list fails at index 2, BUCKET_FULL. -/
theorem test_apply_fails_at_2 :
    Working.tryItems .integrator false 0 ⟨.blank, .default⟩
      [.config .protectedWays 1, .add drive, .add { drive with station := 6, block := 9 }, .add clamp]
      = .error (2, .bucketFull) := by decide +kernel

/-- Spec 11.1: protected ADDs staged before PROTECTED_WAYS fail at the first of them with BUCKET_FULL. -/
theorem test_apply_add_before_ways :
    Working.tryItems .integrator false 0 ⟨.blank, .default⟩ [.add drive, .config .protectedWays 1]
      = .error (0, .bucketFull) := by decide +kernel

/-- Spec 11.4: the remaining time at 905 of a lease that expires at 3510 is 2605. -/
theorem test_lease_remaining :
    State.leaseReport { calm with now := 905 * 32000 } (some ⟨.b, 3000, 3510 * 32000⟩)
      = [2, 0x0A, 0x2D] := by decide +kernel

/-- Spec 1.9, R17: the answer to an ECHO leaves slot, reservation and tag as it should. -/
theorem test_echo_answers :
    let t := after (exec .echo (asked calm 0x01 [1, 2, 3]))
    t.slots = [] ∧ (t.output .a).reserved = 0
      ∧ (t.output .a).answers = [⟨.mga, 0, 7, 63, 9, 0x0001, 0, [1, 2, 3]⟩] := by decide +kernel

/-- Table 11-2 and R57: SET_MODE(1) changes the mode with its MGA not yet placed; then DONE is placed,
with mode before 0. -/
theorem test_set_mode_reports_before :
    let t := after (exec .setMode { asked calm 0x19 [1] with session := some (sessionA .integrator []) })
    let u := after (exec (.screening (.place .a)) t)
    t.mode = .screening ∧ t.slots = [] ∧ (t.output .a).answers = [] ∧ (t.output .a).reserved = 1
      ∧ (u.output .a).answers.map (·.data) = [[0]] ∧ (u.output .a).reserved = 0 := by decide +kernel

/-- R57 and R180: of two SET_MODEs in the slots, the MGA of the first may be placed before the second ends, or
after it. -/
theorem test_set_mode_answer_on_either_side :
    let s : State := { asked calm 0x19 [1] with
      session := some (sessionA .integrator []), slots := (asked calm 0x19 [1]).slots ++ (asked calm 0x19 [0]).slots }
    let t := after (exec .setMode s)
    let before := after (exec .setMode (after (exec (.screening (.place .a)) t)))
    let behind := after (exec (.screening (.place .a)) (after (exec .setMode t)))
    (before.output .a).answers.map (·.data) = [[0]] ∧ (before.output .a).handed.map (·.data) = [[1]]
      ∧ before.output .a = behind.output .a ∧ before.mode = .isolated := by decide +kernel

/-- Spec 4.7: the MGA of a SET_MODE stands before an answer that is handed on later (R128). -/
theorem test_set_mode_answer_comes_first :
    let t := after (exec .setMode { asked calm 0x19 [1] with session := some (sessionA .integrator []) })
    ((t.answer .a [rspOf5]).output .a).answers.map (·.kind) = [.mga, .rsp] := by decide +kernel

/-- Table 11-2: COMMIT on a store as delivered writes slot 0, generation 1, and answers nothing yet. -/
theorem test_commit_starts_in_slot_0 :
    let t := after (exec .commit { asked calm 0x0C [] with session := some (sessionA .integrator []) })
    t.store.slot0 = .writing ∧ t.store.slot1 = .erased ∧ t.store.op.map (·.generation) = some 1
      ∧ (t.output .a).answers = [] ∧ (t.output .a).reserved = 1 := by decide +kernel

/-- Table 11-5: the DOWN of Port A purges the held WRITE and leaves the READ. -/
theorem test_link_down_keeps_the_read :
    let t := State.loseAll { calm with held := [writeA, readA],
                                       leases := calm.leases.set 0 (some ⟨.a, 3000, 32000⟩) } .a
    t.held = [readA] ∧ t.lease 1 = none := by decide +kernel

/-- Table 11-6: an RSP of a QUARANTINED station is unmatched and returns the station. -/
theorem test_late_rsp_returns_the_station :
    let t := after (exec (.fieldTelegram (lastOf rspOf5))
      (hearing (calm.withStation 5 ⟨.quarantined, 3, some 320000000, 3, 0⟩) .field rspOf5))
    t.fieldCounters.unmatched = 1 ∧ t.station 5 = ⟨.idle, 0, none, 3, 1⟩
      ∧ (t.notice .a).flags = 2 ∧ (t.notice .b).station = 5 := by decide +kernel

/-- Table 2-1 and R19: 61 bytes at 1M take 610 µs. -/
theorem test_duration_of_a_long_telegram :
    calm.sendEnd .field ⟨.mga, 0, 0, 0, 0, 0, 0, List.replicate 50 0⟩ 0 = 610 * 32 := by decide

/-! ## Witnesses: chapters 1, 2 and 10 -/

theorem test_witness_StepRunsTheFrontCommand :
    { calm with pending := [.dispatch, .apply] }.pending = [.dispatch, .apply] ∧ calm.pending = [] :=
  ⟨rfl, rfl⟩

theorem test_witness_HeldRelayTakesNothing :
    Instr.isStart .dispatch = false ∧ ({ calm with phase := .held }).phase ≠ .running
      ∧ ({ calm with phase := .loading .pin }).phase ≠ .running := by decide

theorem test_witness_SupplyAndResetPin :
    let dark : State := { calm with supply := false, phase := .held }
    dark.supply = false ∧ dark.resetLow = none ∧ dark.phase ≠ .running
      ∧ { dark with resetLow := some 0 }.resetLow ≠ none ∧ { dark with resetLow := some 0 }.supply = false
      ∧ calm.supply = true ∧ calm.resetLow = none
      ∧ { calm with resetLow := some 100 }.resetLow = some 100
      ∧ { calm with resetLow := some 100 }.supply = true := by decide +kernel

/-- An image with one protected entry and STARTED masked on Port B. -/
def anImage : Image :=
  ⟨{ Settings.default with protectedWays := 1, noticeMask := ⟨0x3FF, 0⟩ }, true, tableWith drive 0⟩

theorem test_witness_StartUpLoadEnds :
    let pin : State := { calm with phase := .loading .pin, store := { Store.delivered with
      slot0 := .writing, slot1 := .valid 1 anImage } }
    let fresh : State := { calm with phase := .loading .powerOn }
    pin.phase = .loading .pin ∧ pin.store.newest = some (1, 1, anImage)
      ∧ (anImage.settings.noticeMask.get .a).getLsbD 9 = true
      ∧ (anImage.settings.noticeMask.get .b).getLsbD 9 = false
      ∧ fresh.phase = .loading .powerOn ∧ fresh.store.newest = none := by decide +kernel

theorem test_witness_ReceiverAssemblesWhatIsSent :
    (Telegram.mk .mga 0 7 63 9 0 0 (List.replicate 56 0xA7)).data.length ≤ 56
      ∧ (Telegram.mk .req 1 5 63 9 0 1 []).data.length ≤ 32 := by decide

theorem test_witness_ManagementEncodingsAgree :
    sensor.ok ∧ drive.ok ∧ (ConfigItem.meterPeriod 31).inRange 65535 = true
      ∧ (ConfigItem.rate .field).inRange 62500 = true ∧ ConfigItem.startMode.inRange 0 = true 
      ∧ ConfigItem.startMode.number = (0x00 : Byte).toNat * 256 + (0x14 : Byte).toNat := by
  simp only [RuleEntry.ok]
  decide +kernel

theorem test_witness_HuntTakesACharacter :
    (calm.rx.get .field).assembly = .hunt false
      ∧ ({ calm with rx := calm.rx.set .field ⟨.hunt true, 0⟩ }.rx.get .field).assembly = .hunt true
      ∧ calm.phase = .running ∧ Character.mk 0xA7 true ≠ ⟨0xA7, false⟩ := by decide +kernel

theorem test_witness_AssemblyTakesACharacter :
    let kinds : List Byte := [0x1F, 0x6F, 0x0F, 0x7F]
    kinds.map (fun b => (1 ≤ b.toNat / 16 ∧ b.toNat / 16 ≤ 6 : Bool)) = [true, true, false, false]
      ∧ [(0xA7 : Byte)].length = 1 ∧ ([0xA7, 0x3F, 0, 0, 0, 0, 0, 0] : List Byte)[1]? = some 0x3F
      ∧ (0x3F : Byte).toNat / 16 = 3 ∧ (0x4F : Byte).toNat / 16 = 4 ∧ (32 : Byte).toNat ≤ 32
      ∧ 32 < (33 : Byte).toNat ∧ 56 < (57 : Byte).toNat
      ∧ ([0xA7, 0x11, 0, 0, 0, 0, 0, 0, 0] : List Byte)[8]? = some 0
      ∧ ([0xA7, 0x11, 0, 0, 0, 0, 0, 0, 0, 0, 0] : List Byte).drop (9 + (0 : Byte).toNat)
          ≠ be16 (crc ((([0xA7, 0x11, 0, 0, 0, 0, 0, 0, 0, 0, 0] : List Byte).drop 1).take 8)).toNat := by
  decide +kernel

theorem test_witness_PauseTruncates :
    let s : State := { calm with rx := calm.rx.set .field ⟨.header [0xA7], 0⟩ }
    s.phase = .running ∧ (s.rx.get .field).assembly = .header [0xA7] := by decide +kernel

/-- An MGT of master 7: ECHO. -/
def echoMgt : Telegram := ⟨.mgt, 0, 63, 7, 9, 0, 0x01, [0xAA]⟩

/-- `calm` hearing a telegram on Port A, with 39 or 40 places of its answer section in use. -/
def hearingA (t : Telegram) (used : Nat) (slots : List Mgt) : State :=
  { hearing calm (.control .a) t with
    outputs := calm.outputs.set .a { OutputUnit.empty with reserved := used }, slots := slots }

theorem test_witness_ControlTelegramIsDelivered :
    let req := hearingA reqTo5 39 []
    let mgt := hearingA echoMgt 39 [⟨.a, 7, 8, 1, []⟩]
    let full := hearingA echoMgt 39 [⟨.a, 7, 8, 1, []⟩, ⟨.b, 7, 8, 1, []⟩]
    let spilt := hearingA echoMgt 40 []
    let wrong := hearingA evtOf5 40 []
    req.phase = .running
      ∧ (req.rx.get (.control .a)).assembly.receive ⟨lastOf reqTo5, false⟩ = .telegram reqTo5
      ∧ (req.output .a).used < 40
      ∧ (mgt.rx.get (.control .a)).assembly.receive ⟨lastOf echoMgt, false⟩ = .telegram echoMgt
      ∧ (mgt.output .a).used < 40 ∧ mgt.slots.length < 2 ∧ 2 ≤ full.slots.length
      ∧ 40 ≤ (spilt.output .a).used
      ∧ (wrong.rx.get (.control .a)).assembly.receive ⟨lastOf evtOf5, false⟩ = .telegram evtOf5
      ∧ evtOf5.kind ≠ .req ∧ evtOf5.kind ≠ .mgt := by decide +kernel

theorem test_witness_SilenceBringsTheLinkDown :
    let s : State := { calm with links := ⟨.up 16000000, .down⟩ }
    s.phase = .running ∧ s.links.get .a = .up 16000000
      ∧ ({ s with noticeDown := ⟨1, 0⟩ } : State).noticeDown.get .a = 0 + 1 := by decide +kernel

/-- A group between 1 and 16 is held in a table that lists it; number 0 and those above 16 never are. -/
theorem not_holds_of_free {s : State} (h : s.leases = Vector.replicate 16 none) (p : Port) (g : Nat) :
    s.holds p g = false := by
  cases g with
  | zero => rfl
  | succ k =>
    by_cases hk : k < 16 <;> simp [State.holds, State.lease, h, hk]

/-- Groups 1 and 16 held, by Port A and by Port B. -/
def leased : State :=
  { calm with
    leases := (calm.leases.set 0 (some ⟨.a, 3000, 96000000⟩)).set 15 (some ⟨.b, 60000, 1920000000⟩)
    held := [writeA, readA, writeB], outputs := .both { OutputUnit.empty with reserved := 3 } }

/-- R29 and R80: the freeing of a DOWN port's group may be taken before or after PEER_DOWN is set. -/
theorem test_peer_down_on_either_side :
    let s := after (exec (.silenceTimerExpiry (.expiry .a)) { leased with
      held := [], links := ⟨.up 16000000, .down⟩ })
    let freed := after (exec (.leaseReleaseOnLinkDown .a) s)
    let told := after (exec (.silenceTimerExpiry (.notice .a)) s)
    freed.holds .a 1 = false ∧ (freed.notice .b).flags.getLsbD 3 = false
      ∧ told.holds .a 1 = true ∧ (told.notice .b).flags.getLsbD 3 = true := by decide +kernel

theorem test_witness_LinkDownFreesTheLeases :
    let s : State := { calm with leaseDown := ⟨1, 0⟩ }
    let t : State := { leased with leaseDown := ⟨1, 1⟩ }
    s.phase = .running ∧ s.leaseDown.get .a = 0 + 1 ∧ (∀ g, s.holds .a g = false)
      ∧ t.leaseDown.get .a = 0 + 1 ∧ t.holds .a 1 = true ∧ (∀ h < 1, t.holds .a h = false)
      ∧ t.leaseDown.get .b = 0 + 1 ∧ t.holds .b 16 = true ∧ (∀ h < 16, t.holds .b h = false) :=
  ⟨rfl, rfl, fun g => not_holds_of_free rfl .a g, by decide +kernel⟩

/-! ## Witnesses: chapters 3 to 5 -/

theorem test_witness_HitRaiseCountsAtTheKey :
    let s : State := { calm with hitRaises := [⟨5, 18⟩], table := tableWith { drive with hits := 65535 } 3 }
    s.phase = .running ∧ ⟨5, 18⟩ ∈ s.hitRaises
      ∧ s.table.lookup ⟨5, 18⟩ = some (3, { drive with hits := 65535 })
      ∧ ({ s with table := .blank }).table.lookup ⟨5, 18⟩ = none := by decide +kernel

/-- SCREENING with rule (5,18), its lease held by Port A, and a REQ of Port A that waits. -/
def screening : State :=
  { leased with mode := .screening, table := tableWith drive 0, held := [], toScreen := ⟨[reqTo5], []⟩ }

theorem test_witness_ScreeningTurnsAway :
    let dup : State := { screening with held := [{ writeA with tag := 0x40 }] }
    let inEntries : State := { screening with entries := [{ waitingA with tag := 0x40 }] }
    dup.phase = .running ∧ dup.toScreen.get .a = [reqTo5] ∧ dup.repeats .a reqTo5
      ∧ inEntries.repeats .a reqTo5 ∧ ¬screening.repeats .a reqTo5
      ∧ State.refusal { screening with mode := .isolated } .a reqTo5 = some 0x8B
      ∧ screening.refusal .a { reqTo5 with dest := 63 } = some 0x87
      ∧ screening.refusal .a { reqTo5 with code := 4 } = some 0x86
      ∧ screening.refusal .a { reqTo5 with data := [] } = some 0x85
      ∧ screening.refusal .a { reqTo5 with object := 0x0130 } = some 0x80
      ∧ screening.refusal .a { reqTo5 with code := 3 } = some 0x81
      ∧ screening.refusal .b reqTo5 = some 0x82
      ∧ State.refusal { screening with leases := Vector.replicate 16 none } .a reqTo5 = some 0x83
      ∧ screening.refusal .a { reqTo5 with data := [1] } = some 0x85
      ∧ screening.refusal .a { reqTo5 with data := [0, 0, 3, 0xE9] } = some 0x84
      ∧ State.refusal (screening.withStation 5 ⟨.quarantined, 3, some 1, 3, 0⟩) .a reqTo5 = some 0x88
      ∧ State.refusal { screening with held := List.replicate 24 readA } .a reqTo5 = some 0x8A
      ∧ State.refusal { screening with
          table := tableWith { drive with meter := 32 } 0
          meters := calm.meters.set 31 ⟨16, 100, 0, some 1⟩ } .a reqTo5 = some 0x89 := by
  simp only [State.repeats]
  decide +kernel

theorem test_witness_ScreeningTurnsAway_claims :
    let s : State := { calm with outputs := ⟨{ OutputUnit.empty with
      handed := [rspOf5], handedBack := 1, reserved := 2 }, .empty⟩ }
    s.phase = .running ∧ (s.outputs.get .a).handed = [rspOf5] ∧ 0 < (s.outputs.get .a).handedBack := by
  decide +kernel

/-- R60 and R61: an absorbed REQ holds its place until its reservation is released. -/
theorem test_absorbed_then_released :
    let dup : State := { screening with
      held := [{ writeA with tag := 0x40 }], outputs := ⟨{ OutputUnit.empty with reserved := 2 }, .empty⟩ }
    let t := after (exec (.screening (.judge .a)) dup)
    let u := after (exec (.screening (.release .a)) t)
    (t.output .a).reserved = 2 ∧ (t.counters.get .a).duplicates = 1
      ∧ u.output .a = { OutputUnit.empty with reserved := 1 } := by decide +kernel

/-- R60: a refusal is answered after its screening, by a happening of its own. -/
theorem test_refused_then_placed :
    let s : State := { screening with
      mode := .isolated, outputs := ⟨{ OutputUnit.empty with reserved := 1 }, .empty⟩ }
    let t := after (exec (.screening (.judge .a)) s)
    let u := after (exec (.screening (.place .a)) t)
    (t.output .a).answers = [] ∧ (t.counters.get .a).refused = 1
      ∧ (u.output .a).answers.map (·.code) = [0x8B] ∧ (u.output .a).reserved = 0 := by decide +kernel

theorem test_witness_ScreeningAdmits :
    screening.phase = .running ∧ screening.toScreen.get .a = [reqTo5] ∧ ¬screening.repeats .a reqTo5
      ∧ screening.refusal .a reqTo5 = none
      ∧ screening.refusal .a { reqTo5 with data := [0xFF, 0xFF, 0xFC, 0x18] } = none := by
  simp only [State.repeats]
  decide +kernel

theorem test_witness_MeterGainsAToken :
    let low := calm.meters.set 0 ⟨16, 100, 15, some 3200⟩
    let s : State := { calm with meters := low.set 31 ⟨255, 65535, 0, some 7⟩ }
    s.phase = .running ∧ (s.meters[(0 : Fin 32)]).refill = some 3200
      ∧ (s.meters[(31 : Fin 32)]).refill = some 7 := by decide +kernel

theorem test_witness_LeaseIsGrantedAndRenewed :
    let take1 := asked leased 0x14 [1, 0xFF, 0xFF]
    let take16 := asked calm 0x14 [16, 0, 1]
    let renew := asked leased 0x15 [1]
    let m := fun code data => Mgt.mk .a 7 9 code data
    take1.Executes (m 0x14 [1, 0xFF, 0xFF]) ∧ (∀ l, take1.lease 1 = some l → l.holder = .a)
      ∧ take16.Executes (m 0x14 [16, 0, 1]) ∧ (∀ l, take16.lease 16 = some l → l.holder = .a)
      ∧ renew.Executes (m 0x15 [1]) ∧ renew.lease 1 = some ⟨.a, 3000, 96000000⟩ := by
  refine ⟨⟨rfl, rfl, rfl⟩, ?_, ⟨rfl, rfl, rfl⟩, ?_, ⟨rfl, rfl, rfl⟩, by decide +kernel⟩
  · rintro l ⟨⟩; rfl
  · rintro l ⟨⟩

theorem test_witness_LeaseRefusalsChangeNothing :
    let m := fun code data => Mgt.mk .a 7 9 code data
    (asked leased 0x14 [0, 1, 0]).Executes (m 0x14 [0, 1, 0])
      ∧ (asked leased 0x14 [17, 1, 0]).Executes (m 0x14 [17, 1, 0])
      ∧ (asked leased 0x14 [1, 0, 0]).Executes (m 0x14 [1, 0, 0])
      ∧ (asked leased 0x14 [16, 0, 1]).Executes (m 0x14 [16, 0, 1])
      ∧ (asked leased 0x14 [16, 0, 1]).lease 16 = some ⟨.b, 60000, 1920000000⟩
      ∧ (asked leased 0x15 [0]).Executes (m 0x15 [0]) ∧ (asked leased 0x16 [17]).Executes (m 0x16 [17])
      ∧ (asked leased 0x15 [2]).Executes (m 0x15 [2]) ∧ (asked leased 0x15 [2]).lease 2 = none
      ∧ (asked leased 0x16 [16]).Executes (m 0x16 [16])
      ∧ (asked leased 0x16 [16]).lease 16 = some ⟨.b, 60000, 1920000000⟩ := by
  simp only [State.Executes]
  decide +kernel

theorem test_witness_LeaseReleaseFreesAndPurges :
    (asked leased 0x16 [1]).Executes ⟨.a, 7, 9, 0x16, [1]⟩
      ∧ (asked leased 0x16 [1]).lease 1 = some ⟨.a, 3000, 96000000⟩ := by
  simp only [State.Executes]
  decide +kernel

theorem test_witness_LeaseExpiryFreesAndPurges :
    leased.phase = .running ∧ leased.lease 1 = some ⟨.a, 3000, 96000000⟩
      ∧ leased.lease 16 = some ⟨.b, 60000, 1920000000⟩ := by decide +kernel

/-! ## Witnesses: chapters 6 and 7 -/

/-- With one held request, only place 0 can be eligible. -/
theorem eligibleAt_single {s : State} {r q : HeldReq} (hs : s.held = [r]) {i : Nat}
    (h : s.eligibleAt i q) : i = 0 ∧ q = r := by
  have hget := h.1
  rw [hs] at hget
  cases i <;> simp_all

/-- The head of the hold queue is eligible when its station is IDLE and a dispatch can be taken. -/
theorem eligibleAt_head {s : State} {r : HeldReq} {rest : List HeldReq} (hs : s.held = r :: rest)
    (hi : (s.station r.station.toNat).state = .idle) (he : s.entries.length < 16) (hf : s.fieldTx = none) :
    s.eligibleAt 0 r :=
  ⟨by simp [hs], hi, fun j hj => absurd hj (Nat.not_lt_zero j), he, hf⟩

theorem test_witness_ArbiterPicks_none : calm.phase = .running ∧ ∀ i r, ¬calm.eligibleAt i r :=
  ⟨rfl, fun i r h => by simpa [calm, State.reset] using h.1⟩

theorem test_witness_ArbiterPicks_urgent :
    State.eligibleAt { calm with held := [writeB] } 0 writeB ∧ writeB.urgent = true
      ∧ ∀ j < 0, ∀ r', State.eligibleAt { calm with held := [writeB] } j r' → ¬r'.urgent = true :=
  ⟨eligibleAt_head rfl rfl (by decide) rfl, rfl, fun j hj => absurd hj (Nat.not_lt_zero j)⟩

theorem test_witness_ArbiterPicks_share :
    let s : State := { calm with held := [readA] }
    (∀ i r, s.eligibleAt i r → r.urgent = false) ∧ s.eligibleAt 0 readA ∧ readA.port = .a
      ∧ (∀ j < 0, ∀ r', s.eligibleAt j r' → ¬r'.port = .a)
      ∧ (∀ j r', s.eligibleAt j r' → r'.port = .a)
      ∧ ({ s with credits := ⟨2, 1⟩ }.credits.get (Port.other .a) < ({ s with credits := ⟨2, 1⟩ }).credits.get .a)
      ∧ s.credits.get .a = s.credits.get (Port.other .a) ∧ s.lastShare = Port.other .a := by
  refine ⟨fun i r h => ?_, eligibleAt_head rfl rfl (by decide) rfl, rfl,
    fun j hj => absurd hj (Nat.not_lt_zero j), fun j r h => ?_, by decide, rfl, rfl⟩
  · rw [(eligibleAt_single rfl h).2]; rfl
  · rw [(eligibleAt_single rfl h).2]; rfl

theorem test_witness_DispatchMakesATransaction :
    State.arbiter { calm with held := [readA] } = some ⟨readA, true⟩
      ∧ State.arbiter { calm with held := [readA, writeB], credits := ⟨1, 0⟩ } = some ⟨writeB, false⟩
      ∧ isFieldStation readA.station = true ∧ isFieldStation writeB.station = true := by decide +kernel

/-- A field transmission of tag 75 to station 5, 12 bytes long, begun at 0. -/
def onField : FieldSend := ⟨75, 5, ⟨.req, 0, 5, 63, 75, 0x0123, 2, [1]⟩, 0, none⟩

/-- A relay that sends it, at a moment, with a WRITE of Port B held for station 6. -/
def fieldBusy (now : Nat) : State :=
  { calm with
    now := now, fieldTx := some onField, held := [writeB]
    entries := [{ waitingA with state := .sending }] }

/-- R111: a dispatch taken before the announcement makes a second entry in SENDING; the announcement then
reaches the first, whose deadline counts from the end: 12 bytes at 1M and class 2, 500 ms. -/
theorem test_dispatch_before_the_announcement :
    let t := after (exec .dispatch (after (exec .fieldTransmissionEnd (fieldBusy 0))))
    t.entries.map (·.state) = [.sending, .sending]
      ∧ (after (exec .fieldTransmissionEnd t)).entries.map (·.state)
          = [.waiting (120 * 32 + 500 * 32000), .sending] := by decide +kernel

/-- R111: an APPLY of TIMEOUT_CLASS_2 after the end, at 121 µs, does not reach the deadline. -/
theorem test_apply_after_the_end :
    let owner := { fieldBusy (121 * 32) with session := some (sessionA .operator [.config (.timeoutClass 2) 7]) }
    let t := after (exec .apply (asked owner 0x0A []))
    let u := after (exec .fieldTransmissionEnd (after (exec .fieldTransmissionEnd t)))
    t.settings.timeoutClass[2] = 7
      ∧ u.entries.map (·.state) = [.waiting (120 * 32 + 500 * 32000)] := by decide +kernel

theorem test_witness_FieldTransmissionEnds :
    let early := fieldBusy 0
    let late : State := { fieldBusy 9999 with fieldTx := some { onField with classes := some #v[2, 3, 4, 5] } }
    let ended : State := { calm with fieldEnd := some ⟨75, 5, 3840, #v[2, 3, 4, 5000]⟩ }
    early.phase = .running ∧ early.fieldEnd = none ∧ early.fieldTx = some onField
      ∧ late.fieldEnd = none ∧ late.fieldTx = some { onField with classes := some #v[2, 3, 4, 5] }
      ∧ ended.fieldEnd = some ⟨75, 5, 3840, #v[2, 3, 4, 5000]⟩ ∧ calm.fieldEnd = none
      ∧ calm.fieldTx = none := by
  decide +kernel

/-- `calm` with station 5 BUSY in transaction 75, hearing a telegram on the Field port. -/
def answering (t : Telegram) : State :=
  { hearing (calm.withStation 5 ⟨.busy, 2, none, 0, 65535⟩) .field t with entries := [waitingA] }

theorem test_witness_FieldRspIsMatchedOrCounted :
    let other : Telegram := { rspOf5 with tag := 76 }
    let unnamed : Telegram := { rspOf5 with source := 63 }
    let astray : Telegram := { rspOf5 with dest := 7 }
    (answering rspOf5).phase = .running
      ∧ ((answering rspOf5).rx.get .field).assembly.receive ⟨lastOf rspOf5, false⟩ = .telegram rspOf5
      ∧ waitingA ∈ (answering rspOf5).entries
      ∧ waitingA.station = rspOf5.source ∧ waitingA.relayTag = rspOf5.tag ∧ waitingA.state ≠ .sending
      ∧ ((answering other).rx.get .field).assembly.receive ⟨lastOf other, false⟩ = .telegram other
      ∧ (∀ e ∈ (answering other).entries, e.relayTag ≠ other.tag)
      ∧ ((answering unnamed).rx.get .field).assembly.receive ⟨lastOf unnamed, false⟩ = .telegram unnamed
      ∧ (∀ e ∈ (answering unnamed).entries, e.station ≠ unnamed.source) ∧ 62 < unnamed.source.toNat
      ∧ ((answering astray).rx.get .field).assembly.receive ⟨lastOf astray, false⟩ = .telegram astray := by
  decide +kernel

/-- `calm` with station 5 QUARANTINED, hearing a telegram on the Field port. -/
def quarantined (t : Telegram) : State :=
  hearing (calm.withStation 5 ⟨.quarantined, 3, some 320000000, 3, 65535⟩) .field t

theorem test_witness_FieldRspIsMatchedOrCounted_quarantined :
    ((quarantined rspOf5).rx.get .field).assembly.receive ⟨lastOf rspOf5, false⟩ = .telegram rspOf5
      ∧ ((quarantined rspOf5).station 5).state = .quarantined ∧ (quarantined rspOf5).entries = [] := by
  decide +kernel

/-- `calm` in SCREENING with one rule, hearing an EVT of station 5. -/
def routing (e : RuleEntry) : State :=
  { hearing calm .field evtOf5 with mode := .screening, table := tableWith e 0 }

theorem test_witness_FieldEvtIsRouted :
    (routing drive).phase = .running
      ∧ ((routing drive).rx.get .field).assembly.receive ⟨lastOf evtOf5, false⟩ = .telegram evtOf5
      ∧ evtOf5.kind = .evt
      ∧ ((quarantined evtOf5).rx.get .field).assembly.receive ⟨lastOf evtOf5, false⟩ = .telegram evtOf5
      ∧ ((quarantined evtOf5).station 5).state = .quarantined
      ∧ (routing drive).table.lookup ⟨evtOf5.source, evtOf5.object.toNat / 16⟩ = some (0, drive)
      ∧ drive.route = .both
      ∧ (routing { drive with route := .a }).table.lookup ⟨5, 18⟩ = some (0, { drive with route := .a })
      ∧ (routing { drive with route := .b }).table.lookup ⟨5, 18⟩ = some (0, { drive with route := .b })
      ∧ (routing sensor).table.lookup ⟨5, 18⟩ = none ∧ (hearing calm .field evtOf5).mode = .isolated
      ∧ (calm.output .a).events.length < 16
      ∧ 16 ≤ (List.replicate 16 evtOf5).length := by decide +kernel

theorem test_witness_QuarantinedStationReturns :
    let s := (calm.withStation 5 ⟨.quarantined, 3, some 320000000, 3, 0⟩).withStation 62
      ⟨.quarantined, 15, some 1, 3, 0⟩
    let odd : Telegram := { rspOf5 with kind := .req }
    s.phase = .running ∧ (s.station 5).state = .quarantined
      ∧ ((hearing s .field odd).rx.get .field).assembly.receive ⟨lastOf odd, false⟩ = .telegram odd
      ∧ odd.kind ≠ .rsp ∧ odd.kind ≠ .evt ∧ (s.station 62).hold = some 1
      ∧ (s.station 5).hold = some 320000000
      ∧ ((hearing s .field { rspOf5 with dest := 62 }).rx.get .field).assembly.receive
          ⟨lastOf { rspOf5 with dest := 62 }, false⟩ = .telegram { rspOf5 with dest := 62 } := by
  decide +kernel

theorem test_witness_QuarantinedStationReturns_wrongKind :
    let ntc : Telegram := { rspOf5 with kind := .ntc, source := 0 }
    let req : Telegram := { rspOf5 with kind := .req, source := 62 }
    calm.phase = .running
      ∧ ((hearing calm .field ntc).rx.get .field).assembly.receive ⟨lastOf ntc, false⟩ = .telegram ntc
      ∧ ((hearing calm .field req).rx.get .field).assembly.receive ⟨lastOf req, false⟩ = .telegram req
      ∧ (calm.station 62).state = .idle := by decide +kernel

theorem test_witness_DeadlineTimesOut :
    let s : State := { calm.withStation 5 ⟨.busy, 1, none, 65535, 0⟩ with entries := [waitingA] }
    let third : State := { calm.withStation 5 ⟨.busy, 2, none, 0, 0⟩ with
      entries := [waitingA], held := [readA, writeB] }
    s.phase = .running ∧ waitingA ∈ s.entries ∧ waitingA.state = .waiting 300
      ∧ (∀ e' ∈ s.entries, e'.relayTag = waitingA.relayTag → e' = waitingA)
      ∧ min 15 ((s.station 5).streak + 1) < s.settings.quarantineLimit
      ∧ third.settings.quarantineLimit ≤ min 15 ((third.station 5).streak + 1) := by decide +kernel

theorem test_witness_IsolatedPurgeAnswersEveryHeldRequest :
    let s : State := { leased with isolatedPurges := 1 }
    s.phase = .running ∧ s.isolatedPurges = 0 + 1 := by decide +kernel

/-! ## Witnesses: chapter 8 -/

theorem test_witness_TransmitterChooses :
    let o : OutputUnit := { OutputUnit.empty with answers := [rspOf5], events := [evtOf5] }
    o.sending = none ∧ o.answers = [rspOf5] ∧ o.events = [evtOf5] ∧ { o with answerRun := 3 }.answerRun < 4
      ∧ 4 ≤ { o with answerRun := 4 }.answerRun ∧ { o with events := [] }.events = []
      ∧ { o with answers := [] }.answers = []
      ∧ { o with sending := some ⟨.answer, rspOf5, 0⟩ }.sending.isSome = true := by decide

/-- An output unit that has sent `t` since the moment 0. -/
def sendingUnit (part : Section) (t : Telegram) : OutputUnit :=
  { OutputUnit.empty with
    answers := match part with | .answer => [t] | .event => []
    events := match part with | .answer => [] | .event => [t]
    sending := some ⟨part, t, 0⟩ }

theorem test_witness_PortSendingEnds :
    let s : State := { calm with outputs := ⟨sendingUnit .answer rspOf5, sendingUnit .event evtOf5⟩ }
    s.phase = .running ∧ (s.output .a).sending = some ⟨.answer, rspOf5, 0⟩
      ∧ (s.output .b).sending = some ⟨.event, evtOf5, 0⟩ := by
  decide +kernel

theorem test_witness_PortSendingEnds_levels :
    let s : State := { fieldBusy (10 * 11 * 32 + 9 * 32 + 31) with
      outputs := ⟨sendingUnit .answer rspOf5, .empty⟩ }
    (∃ part, (s.output .a).sending = some ⟨part, rspOf5, 0⟩) ∧ rspOf5.bytes[11]?.isSome = true
      ∧ (∃ x, s.fieldTx = some x ∧ x.telegram = onField.telegram ∧ x.startedAt = 0)
      ∧ onField.telegram.bytes[11]?.isSome = true
      ∧ s.now = 0 + (10 * 11 + 9) * (32000000 / s.runningRate.get .field) + 31
      ∧ (s.output .b).sending = none :=
  ⟨⟨.answer, rfl⟩, by decide +kernel, ⟨onField, rfl, rfl, rfl⟩, by decide +kernel, rfl, rfl⟩

theorem test_witness_NoticeRequestIsTaken :
    let masked : State := { calm with settings := { Settings.default with noticeMask := .both 0x3FE } }
    let full : State := { calm with outputs := .both { OutputUnit.empty with
      events := List.replicate 16 evtOf5 } }
    (State.reset.notice .a).flags.getLsbD NoticeFlag.started.bit = true
      ∧ (masked.notice .a).flags.getLsbD NoticeFlag.stationQuarantined.bit = false
      ∧ (masked.settings.noticeMask.get .a).getLsbD NoticeFlag.stationQuarantined.bit = false
      ∧ (calm.settings.noticeMask.get .a).getLsbD NoticeFlag.started.bit = true
      ∧ (calm.notice .a).flags.getLsbD NoticeFlag.started.bit = false
      ∧ (calm.output .a).events.length < 16 ∧ 16 ≤ (full.output .a).events.length
      ∧ (full.notice .a).flags.getLsbD NoticeFlag.started.bit = false := by decide +kernel

theorem test_witness_RepeatTimerAnnouncesOrStops :
    let quiet : State := { calm with notices := .both { NoticeState.quiet with timer := some 32000000 } }
    let full : State := { State.reset with outputs := .both { OutputUnit.empty with
      events := List.replicate 16 evtOf5 } }
    quiet.phase = .running ∧ (quiet.notice .a).timer = some 32000000
      ∧ (quiet.notice .a).flags &&& quiet.settings.noticeMask.get .a = 0
      ∧ (State.reset.notice .a).timer = some 32000000
      ∧ (State.reset.notice .a).flags &&& State.reset.settings.noticeMask.get .a ≠ 0
      ∧ (State.reset.output .a).events.length < 16 ∧ 16 ≤ (full.output .a).events.length
      ∧ (full.notice .a).timer = some 32000000 := by decide +kernel

theorem test_witness_NoticeAckClearsItsPort :
    (asked State.reset 0x18 [0xFE, 0x00]).Executes ⟨.a, 7, 9, 0x18, [0xFE, 0x00]⟩ := ⟨rfl, rfl, rfl⟩

/-! ## Witnesses: chapters 9 and 10 -/

/-- The MGT that `asked` puts into the first slot. -/
def mgt (code : Byte) (data : List Byte) : Mgt := ⟨.a, 7, 9, code, data⟩

/-- It is the one that executes. -/
theorem asked_executes {s : State} (hp : s.phase = .running) (hr : s.restart = none) (code : Byte)
    (data : List Byte) : (asked s code data).Executes (mgt code data) := ⟨hp, hr, rfl⟩

/-- `calm` with a session of Port A. -/
def owned (role : Role) (list : List ListItem) : State := { calm with session := some (sessionA role list) }

/-- Port A owns it. -/
theorem owned_owns (role : Role) (list : List ListItem) (code : Byte) (data : List Byte) :
    (asked (owned role list) code data).Owns (mgt code data) (sessionA role list) := ⟨rfl, rfl⟩

theorem test_witness_MgtIsJudgedByCodeAndLength :
    (asked calm 0x00 []).Executes (mgt 0x00 []) ∧ (asked calm 0x1C []).Executes (mgt 0x1C [])
      ∧ (asked calm 0x02 []).Executes (mgt 0x02 []) ∧ (0x02, 1, Instr.sessionOpen) ∈ mgtLengths
      ∧ (asked calm 0x01 []).Executes (mgt 0x01 []) :=
  ⟨asked_executes rfl rfl _ _, asked_executes rfl rfl _ _, asked_executes rfl rfl _ _, by decide,
    asked_executes rfl rfl _ _⟩

theorem test_witness_SessionIsJudgedFirst :
    let held : State := { calm with session := some { sessionA .operator [] with owner := .b } }
    (asked calm 0x0A []).Executes (mgt 0x0A []) ∧ (0x0A, 0, Instr.apply) ∈ mgtLengths
      ∧ needsSession 0x0A = true ∧ calm.session = none
      ∧ (asked held 0x03 []).Executes (mgt 0x03 []) ∧ (0x03, 0, Instr.sessionClose) ∈ mgtLengths
      ∧ held.session.map (·.owner) = some (Port.other .a) :=
  ⟨asked_executes rfl rfl _ _, by decide, by decide, rfl, asked_executes rfl rfl _ _, by decide, rfl⟩

theorem test_witness_SessionOpens :
    let held : State := { calm with session := some { sessionA .operator [] with owner := .b } }
    (asked calm 0x02 [3]).Executes (mgt 0x02 [3]) ∧ (asked held 0x02 [1]).Executes (mgt 0x02 [1])
      ∧ held.session.map (·.owner) = some (Port.other .a)
      ∧ (asked { calm with lock := true } 0x02 [2]).Executes (mgt 0x02 [2])
      ∧ (asked calm 0x02 [2]).Executes (mgt 0x02 [2]) ∧ calm.lock = false
      ∧ (asked (owned .integrator []) 0x02 [1]).Owns (mgt 0x02 [1]) (sessionA .integrator []) :=
  ⟨asked_executes rfl rfl _ _, asked_executes rfl rfl _ _, rfl, asked_executes rfl rfl _ _,
    asked_executes rfl rfl _ _, rfl, owned_owns _ _ _ _⟩

theorem test_witness_SessionEnds :
    let s : State := { asked (owned .operator []) 0x03 [] with sessionDown := .both 1 }
    s.session = some (sessionA .operator []) ∧ s.Executes (mgt 0x03 [])
      ∧ s.sessionDown.get .a = 0 + 1 ∧ s.sessionDown.get .b = 0 + 1
      ∧ (∀ x, s.session = some x → x.owner = Port.other .b)
      ∧ ∀ x, { s with session := none }.session = some x → x.owner = Port.other .a :=
  ⟨rfl, ⟨rfl, rfl, rfl⟩, rfl, rfl, by rintro x ⟨⟩; rfl, by rintro x ⟨⟩⟩

theorem test_witness_ReadsReport :
    (asked calm 0x04 [2, 0x20]).Executes (mgt 0x04 [2, 0x20])
      ∧ (ConfigItem.meterPeriod 31).number = (2 : Byte).toNat * 256 + (0x20 : Byte).toNat
      ∧ (asked calm 0x11 [62]).Executes (mgt 0x11 [62]) ∧ (asked calm 0x12 [1, 0]).Executes (mgt 0x12 [1, 0])
      ∧ (asked calm 0x12 [2, 0]).Executes (mgt 0x12 [2, 0])
      ∧ (asked calm 0x12 [4, 2]).Executes (mgt 0x12 [4, 2]) ∧ (asked calm 0x1B []).Executes (mgt 0x1B [])
      ∧ (asked calm 0x17 []).Executes (mgt 0x17 []) :=
  ⟨asked_executes rfl rfl _ _, by decide, asked_executes rfl rfl _ _, asked_executes rfl rfl _ _,
    asked_executes rfl rfl _ _, asked_executes rfl rfl _ _, asked_executes rfl rfl _ _,
    asked_executes rfl rfl _ _⟩

theorem test_witness_ReadsReport_out_of_range :
    (asked calm 0x11 [63]).Executes (mgt 0x11 [63]) ∧ (asked calm 0x11 [0]).Executes (mgt 0x11 [0])
      ∧ (asked calm 0x12 [5, 0]).Executes (mgt 0x12 [5, 0]) ∧ (asked calm 0x12 [2, 1]).Executes (mgt 0x12 [2, 1])
      ∧ (asked calm 0x12 [4, 3]).Executes (mgt 0x12 [4, 3]) :=
  ⟨asked_executes rfl rfl _ _, asked_executes rfl rfl _ _, asked_executes rfl rfl _ _,
    asked_executes rfl rfl _ _, asked_executes rfl rfl _ _⟩

theorem test_witness_ReadsReport_unknown_item :
    (asked calm 0x04 [2, 0x21]).Executes (mgt 0x04 [2, 0x21])
      ∧ ∀ i : ConfigItem, i.number ≠ (2 : Byte).toNat * 256 + (0x21 : Byte).toNat := by
  refine ⟨asked_executes rfl rfl _ _, fun i => ?_⟩
  show i.number ≠ 545
  unfold ConfigItem.number
  split <;> omega

theorem test_witness_TableReadsAreMasked :
    let s : State := { calm with table := tableWith drive 0, lock := true }
    (asked s 0x0F [0, 0, 0]).Executes (mgt 0x0F [0, 0, 0])
      ∧ (asked s 0x0F [62, 0x0F, 0xFF]).Executes (mgt 0x0F [62, 0x0F, 0xFF])
      ∧ s.table.lookup ⟨62, 4095⟩ = none ∧ (asked s 0x0F [5, 0, 18]).Executes (mgt 0x0F [5, 0, 18])
      ∧ s.table.lookup ⟨5, 18⟩ = some (0, drive)
      ∧ (asked s 0x10 [128]).Executes (mgt 0x10 [128]) ∧ (asked s 0x10 [127]).Executes (mgt 0x10 [127]) :=
  ⟨asked_executes rfl rfl _ _, asked_executes rfl rfl _ _, by decide +kernel, asked_executes rfl rfl _ _,
    by decide +kernel, asked_executes rfl rfl _ _, asked_executes rfl rfl _ _⟩

/-- The data of STAGE_CONFIG for PROTECTED_WAYS 2. -/
def waysData : List Byte := [0, 0x13, 0, 0, 0, 2]

theorem test_witness_StagingIsJudged :
    parseConfig [0, 0x13, 0, 0, 0, 3] = none ∧ parseConfig waysData = some (.config .protectedWays 2)
      ∧ parseEntry drive.bytes = some drive ∧ drive.prot = true ∧ parseEntry sensor.bytes = some sensor
      ∧ sensor.prot = false ∧ Table.blank.lookup sensor.key = none
      ∧ parseKey [62, 0x0F, 0xFF] = some ⟨62, 4095⟩ ∧ drive.bytes.length = 22
      ∧ 32 ≤ (List.replicate 32 (ListItem.delete ⟨5, 18⟩)).length
      ∧ (List.replicate 31 (ListItem.delete ⟨5, 18⟩)).length < 32 := by decide +kernel

theorem test_witness_StagingIsJudged_states (role : Role) (list : List ListItem) (code : Byte)
    (data : List Byte) :
    (asked (owned role list) code data).Executes (mgt code data)
      ∧ (asked (owned role list) code data).Owns (mgt code data) (sessionA role list) :=
  ⟨asked_executes rfl rfl _ _, owned_owns _ _ _ _⟩

theorem test_witness_ChangeListIsReadAndDiscarded :
    let one : List ListItem := [.delete ⟨5, 18⟩]
    (asked (owned .operator one) 0x0B []).Executes (mgt 0x0B [])
      ∧ (asked (owned .operator one) 0x0B []).Owns (mgt 0x0B []) (sessionA .operator one)
      ∧ (asked (owned .operator one) 0x09 [32]).Executes (mgt 0x09 [32])
      ∧ one[(0 : Byte).toNat]? = some (.delete ⟨5, 18⟩) ∧ one.length ≤ (31 : Byte).toNat :=
  ⟨asked_executes rfl rfl _ _, owned_owns _ _ _ _, asked_executes rfl rfl _ _, rfl, by decide⟩

theorem test_witness_OwnerClearsCountersAndSetsTheMode :
    (asked (owned .operator []) 0x13 []).Executes (mgt 0x13 [])
      ∧ (asked (owned .operator []) 0x13 []).Owns (mgt 0x13 []) (sessionA .operator [])
      ∧ (asked (owned .operator []) 0x19 [2]).Executes (mgt 0x19 [2])
      ∧ (asked (owned .operator []) 0x19 [1]).Owns (mgt 0x19 [1]) (sessionA .operator [])
      ∧ (asked { owned .operator [] with mode := .screening } 0x19 [0]).Executes (mgt 0x19 [0]) :=
  ⟨asked_executes rfl rfl _ _, owned_owns _ _ _ _, asked_executes rfl rfl _ _, owned_owns _ _ _ _,
    asked_executes rfl rfl _ _⟩

theorem test_witness_TableItemsAreTried_config :
    ConfigItem.noticeMask .b ≠ .protectedWays ∧ (ConfigItem.noticeMask .b).inRange 0x3FF = true
      ∧ ConfigItem.startMode.inRange 1 = true ∧ (ConfigItem.timeoutClass 3).inRange 5000 = true := by decide

theorem test_witness_TableItemsAreTried :
    let w : Working := ⟨tableWith drive 0, { Settings.default with protectedWays := 1 }⟩
    let open' := fun v : Fin 4 => 1 ≤ v.val ∧ w.table[(Key.mk 6 9).bucket][v] = none
    drive.prot = true ∧ w.table.lookup drive.key = some (0, drive) ∧ w.table.lookup ⟨6, 9⟩ = none
      ∧ open' 1 ∧ (∀ u < 1, ¬open' u)
      ∧ (∀ v : Fin 4, ¬(v.val < 1 ∧ w.table[(Key.mk 6 9).bucket][v] = none))
      ∧ ({ drive with prot := false }).prot ≠ drive.prot
      ∧ w.table[(Key.mk 5 18).bucket][(0 : Fin 4)] = some drive
      ∧ ∀ (b : Fin 128) (v : Fin 4), Table.blank[b][v] = none := by decide +kernel

theorem test_witness_ApplyFailsWhole :
    let items : List ListItem := [.config .startMode 1, .add drive]
    (asked (owned .integrator items) 0x0A []).Executes (mgt 0x0A [])
      ∧ (asked (owned .integrator items) 0x0A []).Owns (mgt 0x0A []) (sessionA .integrator items)
      ∧ Working.tryAll ⟨.blank, .default⟩ .integrator false [.config .startMode 1]
          = .ok ⟨.blank, { Settings.default with startMode := .screening }⟩
      ∧ Working.tryItem .integrator false ⟨.blank, { Settings.default with startMode := .screening }⟩
          (.add drive) = .error .bucketFull :=
  ⟨asked_executes rfl rfl _ _, owned_owns _ _ _ _, by decide +kernel, by decide +kernel⟩

theorem test_witness_ApplyTakesEffectWhole :
    let items : List ListItem := [.config .protectedWays 1, .add drive]
    (asked (owned .integrator items) 0x0A []).Executes (mgt 0x0A [])
      ∧ (asked (owned .integrator items) 0x0A []).Owns (mgt 0x0A []) (sessionA .integrator items)
      ∧ Working.tryAll ⟨.blank, .default⟩ .integrator false items
          = .ok ⟨tableWith drive 0, { Settings.default with protectedWays := 1 }⟩ :=
  ⟨asked_executes rfl rfl _ _, owned_owns _ _ _ _, by decide +kernel⟩

/-- A COMMIT in flight to slot 0. -/
def commitOp : StoreOp := ⟨.commit, 0, 1, .a, 7, 9, .blank, 48000000⟩

theorem test_witness_StoreOperationIsJudgedAndStarted :
    let s := asked (owned .integrator []) 0x0D []
    let last : Store := { Store.delivered with slot0 := .valid 4294967295 .blank }
    s.Executes (mgt 0x0D []) ∧ s.Owns (mgt 0x0D []) (sessionA .integrator []) ∧ s.store.op = none
      ∧ s.store.faulted = false ∧ s.lock = false ∧ s.store.newest = none
      ∧ last.newest = some (0, 4294967295, .blank)
      ∧ ({ last with slot0 := .valid 4294967294 .blank }).newest = some (0, 4294967294, .blank)
      ∧ ({ last with op := some commitOp }).op.isSome = true :=
  ⟨asked_executes rfl rfl _ _, owned_owns _ _ _ _, rfl, rfl, rfl, rfl, rfl, rfl, rfl⟩

/-- A relay that writes slot 0. -/
def writing : State := { calm with store := { Store.delivered with slot0 := .writing, op := some commitOp } }

theorem test_witness_StoreOperationSucceeds : writing.phase = .running ∧ writing.store.op = some commitOp :=
  ⟨rfl, rfl⟩

theorem test_witness_StoreOperationFails :
    writing.phase = .running ∧ writing.store.op = some commitOp
      ∧ { writing with store := { writing.store with failures := 2 } }.store.op = some commitOp := by
  decide +kernel

theorem test_witness_RestartReloads :
    (asked (owned .operator []) 0x1A []).Executes (mgt 0x1A [])
      ∧ (asked (owned .operator []) 0x1A []).Owns (mgt 0x1A []) (sessionA .operator [])
      ∧ (asked (owned .operator []) 0x1A []).store.op = none ∧ writing.store.op ≠ none
      ∧ { Store.delivered with slot1 := .valid 1 anImage }.newest = some (1, 1, anImage) :=
  ⟨asked_executes rfl rfl _ _, owned_owns _ _ _ _, rfl, by decide +kernel, rfl⟩

theorem test_witness_RestartPartsAreTakenAndAnswered :
    let begun : RestartRun := ⟨none, false, false, false, .both false⟩
    let whole : RestartRun := ⟨none, false, true, true, .both true⟩
    { leased with restart := some begun }.restart = some begun ∧ leased.phase = .running
      ∧ begun.noticeDone.get .b = false
      ∧ { asked calm 0x1A [] with restart := some whole }.slots.head? = some (mgt 0x1A [])
      ∧ (∀ p, whole.noticeDone.get p = true)
      ∧ ¬(begun.holdDone = true ∧ begun.transactionDone = true ∧ ∀ p, begun.noticeDone.get p = true)
      ∧ whole.holdDone = true ∧ whole.transactionDone = true :=
  ⟨rfl, rfl, rfl, rfl, fun p => by cases p <;> rfl, fun h => Bool.false_ne_true h.1, rfl, rfl⟩

/-! ## Witnesses: the invariants, in a state with something of each kind -/

/-- The relay in the middle of work: a rule, a session, a held READ, a WAITING transaction. -/
def busy : State :=
  { (asked (owned .operator [.add sensor]) 0x0B []).withStation 5 ⟨.busy, 2, none, 0, 0⟩ with
    pending := [.deadline 75]
    table := tableWith { drive with prot := false } 0
    held := [readA]
    entries := [waitingA]
    outputs := ⟨{ OutputUnit.empty with reserved := 3 }, .empty⟩
    store := { Store.delivered with slot0 := .valid 4294967295 .blank } }

theorem settings_default_ok : Settings.default.ok := by
  intro i
  cases i <;> first
    | rfl
    | (rename_i x; first | (cases x <;> rfl) | (revert x; decide +kernel))
    | (rename_i x; cases x <;> first | rfl | (rename_i y; cases y <;> rfl))

theorem image_blank_ok : Image.blank.ok := by
  refine ⟨settings_default_ok, ?_, ?_⟩
  · simp only [Table.ok, RuleEntry.ok]
    decide +kernel
  · decide +kernel

theorem test_witness_EveryStepKeepsTheTables : busy.TablesOk ∧ ∃ t, step busy = .next t := by
  refine ⟨⟨settings_default_ok, ?_, ?_, ?_, ?_, ?_⟩, _, rfl⟩
  · simp only [Table.ok, RuleEntry.ok]
    decide +kernel
  · rintro i ⟨⟩; exact image_blank_ok
  · rintro i ⟨⟩
  · rintro op ⟨⟩
  · rintro x ⟨⟩ item hi
    obtain rfl := List.mem_singleton.1 hi
    simp only [ListItem.ok, RuleEntry.ok]
    decide +kernel

theorem test_witness_EveryStepKeepsTheHoldQueue : busy.HeldOk :=
  ⟨by decide +kernel, fun p => by cases p <;> decide +kernel, by decide +kernel⟩

theorem test_witness_EveryStepKeepsTheLeases :
    leased.LeasesOk ∧ ∃ t, step { leased with pending := [.dispatch] } = .next t := by
  refine ⟨?_, _, rfl⟩
  intro r hr ho hg
  have h : r = writeA ∨ r = readA ∨ r = writeB := by simpa [leased] using hr
  obtain rfl | rfl | rfl := h
  · exact ⟨⟨.a, 3000, 96000000⟩, by decide +kernel⟩
  · exact absurd rfl ho
  · exact ⟨⟨.b, 60000, 1920000000⟩, by decide +kernel⟩

theorem test_witness_EveryStepKeepsTheStations : busy.StationsOk := by
  refine ⟨by decide +kernel, by decide +kernel, by decide +kernel, by decide +kernel, by decide +kernel,
    ?_, ?_, by decide +kernel, ?_⟩ <;> decide +kernel

theorem test_witness_EveryStepKeepsTheAnswers : busy.AnswersOk := by
  refine ⟨fun p => ?_, fun p => by cases p <;> decide +kernel, by decide +kernel⟩
  cases p <;> exact ⟨by decide +kernel, by decide +kernel, by decide +kernel, by decide +kernel,
    fun _ => ⟨rfl, rfl⟩, by decide +kernel, by decide +kernel⟩

theorem test_witness_EveryStepKeepsTheNewestImage :
    busy.StoreOk ∧ busy.store.newest = some (0, 4294967295, .blank) := by
  refine ⟨⟨?_, ?_, ?_, ?_, by decide +kernel, by decide +kernel, by decide +kernel⟩, rfl⟩
  · rintro op ⟨⟩
  · rintro op ⟨⟩
  · rintro x ⟨⟩; decide
  · rintro op ⟨⟩

theorem test_witness_EveryStepKeepsSessionMetersAndNotices :
    busy.SessionOk ∧ busy.MetersOk ∧ State.reset.NoticesOk ∧ ∃ t, step busy = .next t := by
  refine ⟨?_, ?_, fun p _ _ => by cases p <;> rfl, _, rfl⟩
  · rintro x ⟨⟩
    exact ⟨by decide, by decide, fun _ v h => by simp [sessionA] at h⟩
  · simp only [State.MetersOk]
    decide +kernel

/-- A command of the list that changes what it may: RESET_N_FALL puts a set lock back to its start value. -/
theorem test_witness_OnlyTheseCommandsChange :
    ∃ t, exec .resetNFall { calm with lock := true } = .next t ∧ t.lock ≠ true := ⟨_, rfl, by decide +kernel⟩

end Sys2Proof.Tests
end

/-! ## Bytes and words

What the byte functions of Operands.lean give, as numbers: the facts that the proofs about telegrams, entries
and items share. -/

namespace Sys2Proof.Machine

@[simp] theorem byteOf_toNat (n : Nat) : (byteOf n).toNat = n % 256 := by
  simp [byteOf]

/-- A number below 256 is the value of its byte. -/
theorem byteOf_toNat_of_lt {n : Nat} (h : n < 256) : (byteOf n).toNat = n := by
  rw [byteOf_toNat, Nat.mod_eq_of_lt h]

/-- Two bytes carry a 16-bit number (R1). -/
theorem ofBe16_byteOf {n : Nat} (h : n < 65536) : ofBe16 (byteOf (n / 256)) (byteOf n) = n := by
  simp only [ofBe16, byteOf_toNat]
  omega

/-- Four bytes carry a 32-bit number (R1). -/
theorem ofBe32_byteOf {n : Nat} (h : n < 4294967296) :
    ofBe32 (byteOf (n / 16777216)) (byteOf (n / 65536)) (byteOf (n / 256)) (byteOf n) = n := by
  simp only [ofBe32, byteOf_toNat]
  omega

theorem append_bytes_toNat (hi lo : Byte) : (hi ++ lo).toNat = ofBe16 hi lo := by
  rw [BitVec.toNat_append, ← Nat.shiftLeft_add_eq_or_of_lt lo.isLt, Nat.shiftLeft_eq]
  rfl

theorem append_four_bytes_toNat (b3 b2 b1 b0 : Byte) :
    (b3 ++ b2 ++ b1 ++ b0).toNat = ofBe32 b3 b2 b1 b0 := by
  rw [BitVec.toNat_append, ← Nat.shiftLeft_add_eq_or_of_lt b0.isLt, Nat.shiftLeft_eq,
    BitVec.toNat_append, ← Nat.shiftLeft_add_eq_or_of_lt b1.isLt, Nat.shiftLeft_eq,
    append_bytes_toNat, ofBe16, ofBe32]
  omega

/-- The two bytes of a 16-bit word, put together, are the word. -/
theorem append_byteOf_word (w : BitVec 16) : byteOf (w.toNat / 256) ++ byteOf w.toNat = w :=
  BitVec.eq_of_toNat_eq (by rw [append_bytes_toNat, ofBe16_byteOf w.isLt])

/-- The four bytes of a 32-bit word, put together, are the word. -/
theorem append_byteOf_dword (w : BitVec 32) :
    byteOf (w.toNat / 16777216) ++ byteOf (w.toNat / 65536) ++ byteOf (w.toNat / 256) ++ byteOf w.toNat
      = w :=
  BitVec.eq_of_toNat_eq (by rw [append_four_bytes_toNat, ofBe32_byteOf w.isLt])

end Sys2Proof.Machine

/-! ## A receiver and the bytes of a telegram (R1 to R3, R20 to R24) -/

namespace Sys2Proof.Machine

/-! ### The check (R2) -/

/-- Step 3 of R2 as the shift and the 0x1021 where bit 15 of the register and the bit differ. -/
theorem crcBit_eq (r : BitVec 16) (bit : Bool) :
    crcBit r bit = if r.getLsbD 15 ≠ bit then (r <<< 1) ^^^ 0x1021 else r <<< 1 := by
  simp [crcBit, BitVec.msb_eq_getLsbD_last]

/-- One more byte covered is one more byte taken by the register (R2). -/
theorem crc_concat (bytes : List Byte) (b : Byte) : crc (bytes ++ [b]) = crcByte (crc bytes) b := by
  simp [crc]

/-! ### Kinds on the wire (R3) -/

/-- Byte 1 of a telegram names its kind, whatever the flags. -/
theorem kindOfByte_code (k : Kind) (flags : BitVec 4) :
    kindOfByte (byteOf (k.code * 16 + flags.toNat)) = some k := by
  have hdiv : (byteOf (k.code * 16 + flags.toNat)).toNat / 16 = k.code := by
    have := flags.isLt
    have : k.code ≤ 6 := by cases k <;> decide
    rw [byteOf_toNat]
    omega
  rw [kindOfByte, hdiv]
  cases k <;> rfl

/-- The low four bits of byte 1 are the flags. -/
theorem setWidth_kind_flags (n : Nat) (flags : BitVec 4) :
    (byteOf (n * 16 + flags.toNat)).setWidth 4 = flags := by
  have := flags.isLt
  apply BitVec.eq_of_toNat_eq
  rw [BitVec.toNat_setWidth, byteOf_toNat]
  omega

/-- Every maximum L fits into byte 8 (Table 1-2). -/
theorem Kind.maxLength_lt (k : Kind) : k.maxLength < 256 := by cases k <;> decide

/-! ### One character at a receiver -/

/-- Bytes that join the tail leave the bytes before them at their places. -/
theorem getElem?_append_of_some {bytes : List Byte} {i : Nat} {b : Byte} (h : bytes[i]? = some b)
    (more : List Byte) : (bytes ++ more)[i]? = some b := by
  rw [List.getElem?_append_left (List.getElem?_eq_some_iff.mp h).1, h]

/-- In HUNT the sync byte starts a telegram (R22). -/
theorem Assembly.receive_sync (mark : Bool) :
    (Assembly.hunt mark).receive ⟨0xA7, false⟩ = .progress (.header [0xA7]) :=
  rfl

/-- In HEADER a byte that neither names a kind nor carries L is taken as it is (R23). -/
theorem Assembly.receive_header {bytes : List Byte} (b : Byte) (h1 : bytes.length ≠ 1)
    (h8 : bytes.length ≠ 8) :
    (Assembly.header bytes).receive ⟨b, false⟩ = .progress (.header (bytes ++ [b])) := by
  simp [Assembly.receive, receiveHeader, h1, h8]

/-- Byte 1 is taken when it names a kind (R23). -/
theorem Assembly.receive_kind {b : Byte} {k : Kind} (hk : kindOfByte b = some k) (sync : Byte) :
    (Assembly.header [sync]).receive ⟨b, false⟩ = .progress (.header [sync, b]) := by
  simp [Assembly.receive, receiveHeader, hk]

/-- Byte 8 is taken, and BODY begins, when L is no more than the kind's maximum (R23). -/
theorem Assembly.receive_length {bytes : List Byte} {len kb : Byte} {k : Kind} (h8 : bytes.length = 8)
    (h1 : bytes[1]? = some kb) (hk : kindOfByte kb = some k) (hl : len.toNat ≤ k.maxLength) :
    (Assembly.header bytes).receive ⟨len, false⟩ = .progress (.body (bytes ++ [len])) := by
  simp only [Assembly.receive, receiveHeader, h8, getElem?_append_of_some h1, Option.bind_some, hk, if_pos hl]
  rfl

/-- In BODY a byte that is not the last one is taken (R24). -/
theorem Assembly.receive_body {bytes : List Byte} {len : Byte} (b : Byte) (h8 : bytes[8]? = some len)
    (h : bytes.length + 1 < 11 + len.toNat) :
    (Assembly.body bytes).receive ⟨b, false⟩ = .progress (.body (bytes ++ [b])) := by
  simp [Assembly.receive, receiveBody, getElem?_append_of_some h8, h]

/-- The last byte ends the telegram that the bytes spell (R24). -/
theorem Assembly.receive_last {bytes : List Byte} {len last : Byte} {t : Telegram} (h8 : bytes[8]? = some len)
    (h : bytes.length + 1 = 11 + len.toNat) (ht : parseTelegram (bytes ++ [last]) = some t) :
    (Assembly.body bytes).receive ⟨last, false⟩ = .telegram t := by
  simp [Assembly.receive, receiveBody, getElem?_append_of_some h8, h, ht]

/-! ### Runs of characters -/

/-- A character that is no more than a step of the assembly. -/
theorem Assembly.feed_cons {a next : Assembly} {b : Byte} (h : a.receive ⟨b, false⟩ = .progress next)
    (rest : List Byte) : a.feed (b :: rest) = next.feed rest := by
  simp only [Assembly.feed, h]

/-- Characters that end no assembly, then the rest of the run. -/
theorem Assembly.feed_append {a next : Assembly} {front : List Byte} (h : a.feed front = some next)
    (rest : List Byte) : a.feed (front ++ rest) = next.feed rest := by
  induction front generalizing a with
  | nil => cases h; rfl
  | cons b front ih =>
    rw [Assembly.feed] at h
    split at h
    · rename_i step hstep
      rw [List.cons_append, Assembly.feed_cons hstep, ih h]
    all_goals cases h

/-- BODY takes every byte before the last one. -/
theorem Assembly.feed_body {len : Byte} (rest : List Byte) {bytes : List Byte} (h8 : bytes[8]? = some len)
    (hl : bytes.length + rest.length < 11 + len.toNat) :
    (Assembly.body bytes).feed rest = some (.body (bytes ++ rest)) := by
  induction rest generalizing bytes with
  | nil => rw [List.append_nil]; rfl
  | cons b rest ih =>
    rw [List.length_cons] at hl
    rw [Assembly.feed_cons (Assembly.receive_body b h8 (by omega)),
      ih (getElem?_append_of_some h8 [b]) (by rw [List.length_append, List.length_singleton]; omega),
      List.append_assoc, List.singleton_append]

/-! ### The bytes of a telegram -/

/-- Bytes 0 to 8 of a telegram (Table 1-1). -/
def Telegram.head (t : Telegram) : List Byte :=
  [0xA7, byteOf (t.kind.code * 16 + t.flags.toNat), t.dest, t.source, t.tag, byteOf (t.object.toNat / 256),
    byteOf t.object.toNat, t.code, byteOf t.data.length]

/-- The bytes before the data take a receiver from HUNT to BODY, when L does not exceed the kind's maximum
(R22, R23). -/
theorem Telegram.feed_head (t : Telegram) (mark : Bool)
    (hl : (byteOf t.data.length).toNat ≤ t.kind.maxLength) :
    (Assembly.hunt mark).feed t.head = some (.body t.head) := by
  have hk := kindOfByte_code t.kind t.flags
  rw [Telegram.head, Assembly.feed_cons (Assembly.receive_sync mark),
    Assembly.feed_cons (Assembly.receive_kind hk 0xA7)]
  iterate 6 rw [Assembly.feed_cons (Assembly.receive_header _ (by simp) (by simp))]
  rw [Assembly.feed_cons (Assembly.receive_length (by simp) rfl hk hl)]
  rfl

/-- A telegram is its head, its data and its check (Table 1-1). -/
theorem Telegram.bytes_eq (t : Telegram) :
    t.bytes = t.head ++ t.data ++ be16 (crc t.middle).toNat := rfl

/-- Reading back the bytes of a telegram gives the telegram (R1, R2, R24). -/
theorem parseTelegram_bytes {t : Telegram} (hl : t.data.length < 256) : parseTelegram t.bytes = some t := by
  have hlen : (byteOf t.data.length).toNat = t.data.length := byteOf_toNat_of_lt hl
  simp only [Telegram.bytes_eq, Telegram.head, List.cons_append, List.nil_append, parseTelegram,
    kindOfByte_code, hlen, List.take_left', List.drop_left', setWidth_kind_flags, append_byteOf_word]
  exact if_pos rfl

/-- A receiver in HUNT that takes the bytes of a telegram ends, at the last of them, with that telegram. -/
theorem receiver_assembles_bytes (t : Telegram) (mark : Bool) (hl : t.data.length ≤ t.kind.maxLength) :
    ∃ (front : List Byte) (last : Byte) (a : Assembly), t.bytes = front ++ [last]
      ∧ (Assembly.hunt mark).feed front = some a ∧ a.receive ⟨last, false⟩ = .telegram t := by
  have hlt : t.data.length < 256 := hl.trans_lt t.kind.maxLength_lt
  have hlen : (byteOf t.data.length).toNat = t.data.length := byteOf_toNat_of_lt hlt
  let check := (crc t.middle).toNat
  let inBody := t.data ++ [byteOf (check / 256)]
  have hbytes : t.bytes = (t.head ++ inBody) ++ [byteOf check] := by
    simp [Telegram.bytes_eq, be16, inBody, check]
  have hcount : (t.head ++ inBody).length + 1 = 11 + (byteOf t.data.length).toNat := by
    rw [hlen]
    simp only [Telegram.head, inBody, List.length_append, List.length_cons, List.length_nil]
    omega
  have hfeed : (Assembly.hunt mark).feed (t.head ++ inBody) = some (.body (t.head ++ inBody)) := by
    rw [Assembly.feed_append (t.feed_head mark (hlen.trans_le hl))]
    exact Assembly.feed_body inBody rfl (by rw [← List.length_append]; omega)
  exact ⟨_, _, _, hbytes, hfeed,
    Assembly.receive_last rfl hcount (by rw [← hbytes, parseTelegram_bytes hlt])⟩

/-- Settles O6: the run of a receiver over the bytes of a telegram, character by character, and the model's
own bytes and check unfolded to the numbers of Tables 1-1 and 1-2 and the register of R2. -/
theorem receiverAssemblesWhatIsSent : Obligations.ReceiverAssemblesWhatIsSent := by
  refine ⟨fun t mark hl => receiver_assembles_bytes t mark ?_, fun t => ?_, rfl, fun bytes b => ?_⟩
  · cases hk : t.kind <;> simpa [hk, Kind.maxLength] using hl
  · cases hk : t.kind <;> simp [Telegram.bytes, Telegram.middle, be16, hk, Kind.code]
  · simp only [crc_concat, crcByte, List.foldl_cons, List.foldl_nil, crcBit_eq]

end Sys2Proof.Machine

/-! ## The encodings of management data (R10, R11) -/

namespace Sys2Proof.Machine

/-! ### Keys -/

/-- The stations of R4. -/
theorem isFieldStation_iff (st : Byte) : isFieldStation st = true ↔ 1 ≤ st.toNat ∧ st.toNat ≤ 62 := by
  simp [isFieldStation]

/-- The ranges of a key (R4). -/
theorem Key.inRange_iff (k : Key) :
    k.inRange = true ↔ 1 ≤ k.station.toNat ∧ k.station.toNat ≤ 62 ∧ k.block ≤ 4095 := by
  simp only [Key.inRange, Bool.and_eq_true, isFieldStation_iff, decide_eq_true_eq, and_assoc]

/-- Three bytes carry the key they spell when it is in range, and else none (R10). -/
theorem parseKey_eq (station bh bl : Byte) :
    parseKey [station, bh, bl]
      = if (Key.mk station (ofBe16 bh bl)).inRange then some ⟨station, ofBe16 bh bl⟩ else none := rfl

/-! ### Op sets and routes -/

@[simp] theorem OpSet.ofByte_byte (s : OpSet) : OpSet.ofByte s.byte = s := by
  rcases s with ⟨_ | _, _ | _, _ | _⟩ <;> rfl

@[simp] theorem Route.ofCode_code (r : Route) : Route.ofCode r.code.toNat = some r := by
  cases r <;> rfl

/-- The four route codes of Table 1-9. -/
theorem Route.ofCode_eq_some {route : Byte} (h : route.toNat ≤ 3) :
    Route.ofCode route.toNat
      = some (if route = 0 then .none else if route = 1 then .a else if route = 2 then .b else .both) := by
  have hroute : route = 0 ∨ route = 1 ∨ route = 2 ∨ route = 3 := by bv_omega
  rcases hroute with rfl | rfl | rfl | rfl <;> rfl

/-- Every other code names no route. -/
theorem Route.ofCode_eq_none {n : Nat} (h : 3 < n) : Route.ofCode n = Option.none := by
  unfold Route.ofCode
  split
  case h_5 => rfl
  all_goals omega

/-- The two attributes of an entry are bits 0 and 1 of its attributes byte (Table 1-10). -/
theorem RuleEntry.attributes_bits (e : RuleEntry) :
    e.attributes.getLsbD 0 = e.prot ∧ e.attributes.getLsbD 1 = e.limitPresent := by
  rw [RuleEntry.attributes]
  cases e.prot <;> cases e.limitPresent <;> decide

/-! ### Entries (R11, Table 1-10) -/

/-- An entry without limits holds 0 for both (R35). -/
theorem RuleEntry.ok.absent_limits {e : RuleEntry} (h : e.ok) (hp : ¬e.limitPresent = true) :
    0 = e.limitLow ∧ 0 = e.limitHigh := by
  obtain ⟨_, _, _, _, _, habsent, _⟩ := h
  obtain ⟨hlow, hhigh⟩ := habsent (by simpa using hp)
  exact ⟨hlow.symm, hhigh.symm⟩

/-- Two bytes carry a block of the spec (R4). -/
theorem Key.ofBe16_block {k : Key} (h : k.inRange = true) :
    ofBe16 (byteOf (k.block / 256)) (byteOf k.block) = k.block := by
  obtain ⟨_, _, hblock⟩ := (Key.inRange_iff k).1 h
  exact ofBe16_byteOf (by omega)

/-- Reading the 22 bytes of an entry within Table 3-1 gives the entry, with hit count 0 (R11). -/
theorem parseEntry_bytes {e : RuleEntry} (h : e.ok) : parseEntry e.bytes = some { e with hits := 0 } := by
  obtain ⟨hprot, hpresent⟩ := e.attributes_bits
  have hlow : (if e.limitPresent then e.limitLow else 0) = e.limitLow :=
    ite_eq_left_iff.2 fun hp => (h.absent_limits hp).1
  have hhigh : (if e.limitPresent then e.limitHigh else 0) = e.limitHigh :=
    ite_eq_left_iff.2 fun hp => (h.absent_limits hp).2
  have hlowShown : (if e.limitPresent then e.limitLow.toNat else 0) = e.limitLow.toNat :=
    ite_eq_left_iff.2 fun hp => congrArg BitVec.toNat (h.absent_limits hp).1
  have hhighShown : (if e.limitPresent then e.limitHigh.toNat else 0) = e.limitHigh.toNat :=
    ite_eq_left_iff.2 fun hp => congrArg BitVec.toNat (h.absent_limits hp).2
  obtain ⟨hkey, hgroup, hmeter, hclass, hlimits, _, _⟩ := h
  have hgroup' : (byteOf e.group).toNat = e.group := byteOf_toNat_of_lt (by omega)
  have hmeter' : (byteOf e.meter).toNat = e.meter := byteOf_toNat_of_lt (by omega)
  have hclass' : (byteOf e.timeoutClass).toNat = e.timeoutClass := byteOf_toNat_of_lt (by omega)
  simp only [RuleEntry.bytes, keyBytes, be16, be32, List.cons_append, List.nil_append, parseEntry,
    Route.ofCode_code, OpSet.ofByte_byte, append_byteOf_dword, hprot, hpresent, hlow, hhigh, hlowShown,
    hhighShown, hgroup', hmeter', hclass', Key.ofBe16_block hkey]
  exact if_pos (by simp [hkey, hgroup, hmeter, hclass, hlimits])

section StageData
variable (station bh bl attr opsA opsB group meter cls route l3 l2 l1 l0 h3 h2 h1 h0 x18 x19 x20 x21 : Byte)

/-- The data of STAGE_ADD and STAGE_MODIFY carry an entry when each field lies in its range (R11). -/
theorem parseEntry_eq :
    let limited := attr.getLsbD 1
    let low : BitVec 32 := if limited then l3 ++ l2 ++ l1 ++ l0 else 0
    let high : BitVec 32 := if limited then h3 ++ h2 ++ h1 ++ h0 else 0
    parseEntry [station, bh, bl, attr, opsA, opsB, group, meter, cls, route, l3, l2, l1, l0, h3, h2, h1, h0,
        x18, x19, x20, x21]
      = if (Key.mk station (ofBe16 bh bl)).inRange ∧ group.toNat ≤ 16 ∧ meter.toNat ≤ 32 ∧ cls.toNat ≤ 3
          ∧ route.toNat ≤ 3 ∧ low.toInt ≤ high.toInt then
        some {
          station := station, block := ofBe16 bh bl, prot := attr.getLsbD 0, limitPresent := limited
          ops := ⟨OpSet.ofByte opsA, OpSet.ofByte opsB⟩, group := group.toNat, meter := meter.toNat
          timeoutClass := cls.toNat
          route := if route = 0 then .none else if route = 1 then .a else if route = 2 then .b else .both
          limitLow := low, limitHigh := high, hits := 0 }
      else none := by
  intro limited low high
  by_cases hroute : route.toNat ≤ 3
  · simp only [parseEntry, Route.ofCode_eq_some hroute, Bool.and_eq_true, decide_eq_true_eq, and_assoc,
      hroute, true_and]
    rfl
  · simp only [parseEntry, Route.ofCode_eq_none (Nat.lt_of_not_le hroute), hroute, false_and, and_false,
      if_false]

end StageData

/-! ### Configuration items (Table 1-8, Table 9-3) -/

/-- An item's number names it. -/
theorem ConfigItem.ofNumber_number (i : ConfigItem) : ConfigItem.ofNumber i.number = some i := by
  cases i with
  | rate l => rcases l with (_ | _) | _ <;> rfl
  | share p => cases p <;> rfl
  | noticeMask p => cases p <;> rfl
  | timeoutClass c => fin_cases c <;> rfl
  | meterSize n => fin_cases n <;> rfl
  | meterPeriod n => fin_cases n <;> rfl
  | _ => rfl

/-- A number that names an item is the item's. -/
theorem ConfigItem.number_of_ofNumber {n : Nat} {i : ConfigItem} (h : ConfigItem.ofNumber n = some i) :
    i.number = n := by
  unfold ConfigItem.ofNumber at h
  split at h
  case h_21 =>
    split at h
    · cases h; simp only [ConfigItem.number]; omega
    · split at h
      · cases h; simp only [ConfigItem.number]; omega
      · cases h
  all_goals cases h; rfl

/-- Numbers and items of Table 1-8 name each other. -/
theorem ConfigItem.ofNumber_eq_some {n : Nat} {i : ConfigItem} :
    ConfigItem.ofNumber n = some i ↔ i.number = n :=
  ⟨ConfigItem.number_of_ofNumber, fun h => h ▸ i.ofNumber_number⟩

/-- A number that is no item's names nothing. -/
theorem ConfigItem.ofNumber_eq_none {n : Nat} (h : ∀ i : ConfigItem, i.number ≠ n) :
    ConfigItem.ofNumber n = none :=
  Option.eq_none_iff_forall_ne_some.2 fun i hi => h i (ConfigItem.ofNumber_eq_some.1 hi)

/-- The item numbers lie in the three runs of Table 1-8. -/
theorem ConfigItem.number_bounds (i : ConfigItem) :
    1 ≤ i.number ∧ i.number ≤ 0x14 ∨ 0x101 ≤ i.number ∧ i.number ≤ 0x120
      ∨ 0x201 ≤ i.number ∧ i.number ≤ 0x220 := by
  unfold ConfigItem.number
  split <;> omega

/-- Every member of a range of Table 9-3 fits into the four bytes of STAGE_CONFIG. -/
theorem ConfigItem.lt_of_inRange {i : ConfigItem} {v : Nat} (h : i.inRange v = true) : v < 4294967296 := by
  cases i
  case rate l =>
    simp only [ConfigItem.inRange, List.contains_iff_mem, List.mem_cons, List.not_mem_nil, or_false] at h
    omega
  all_goals
    simp only [ConfigItem.inRange, Bool.and_eq_true, decide_eq_true_eq] at h
    omega

section ConfigData
variable {nh nl : Byte} (v3 v2 v1 v0 : Byte)

/-- The data of STAGE_CONFIG name an item of Table 1-8, and carry it when the value is in range (R10). -/
theorem parseConfig_of_item {i : ConfigItem} (hn : i.number = ofBe16 nh nl) :
    parseConfig [nh, nl, v3, v2, v1, v0]
      = if i.inRange (ofBe32 v3 v2 v1 v0) then some (.config i (ofBe32 v3 v2 v1 v0)) else none := by
  simp only [parseConfig, ConfigItem.ofNumber_eq_some.2 hn]

/-- Data with a number that is no item's carry nothing (R10). -/
theorem parseConfig_of_no_item (hn : ∀ i : ConfigItem, i.number ≠ ofBe16 nh nl) :
    parseConfig [nh, nl, v3, v2, v1, v0] = none := by
  simp only [parseConfig, ConfigItem.ofNumber_eq_none hn]

end ConfigData

/-- Reading what STAGE_CONFIG carries for an item and a value in its range gives both back (R10). -/
theorem parseConfig_bytes {i : ConfigItem} {v : Nat} (h : i.inRange v = true) :
    parseConfig (be16 i.number ++ be32 v) = some (.config i v) := by
  have hn : i.number = ofBe16 (byteOf (i.number / 256)) (byteOf i.number) :=
    (ofBe16_byteOf (by have := i.number_bounds; omega)).symm
  have hread := parseConfig_of_item (byteOf (v / 16777216)) (byteOf (v / 65536)) (byteOf (v / 256))
    (byteOf v) hn
  rw [ofBe32_byteOf (ConfigItem.lt_of_inRange h), if_pos h] at hread
  exact hread

/-- Settles O7: each encoding read back by the lemmas above, and the tables of numbers and ranges case by
case over the items. -/
theorem managementEncodingsAgree : Obligations.ManagementEncodingsAgree := by
  refine ⟨fun e h => ⟨rfl, parseEntry_bytes h⟩, fun e => rfl, ?entry, fun n i => ?named, fun n i => ?number,
    fun v => ?range, fun i v h => parseConfig_bytes h, ?config, ?key⟩
  case entry =>
    intro station bh bl attr opsA opsB group meter cls route l3 l2 l1 l0 h3 h2 h1 h0 x18 x19 x20 x21
    have hread := parseEntry_eq station bh bl attr opsA opsB group meter cls route l3 l2 l1 l0 h3 h2 h1 h0
      x18 x19 x20 x21
    simp only [Key.inRange_iff, and_assoc] at hread
    exact ⟨fun hno => hread.trans (if_neg hno), fun hfits => hread.trans (if_pos hfits)⟩
  case named =>
    rw [ConfigItem.ofNumber_eq_some, eq_comm]
  case number =>
    constructor
    · rintro rfl
      cases i with
      | rate l => rcases l with (_ | _) | _ <;> simp [ConfigItem.number]
      | share p => cases p <;> simp [ConfigItem.number]
      | noticeMask p => cases p <;> simp [ConfigItem.number]
      | timeoutClass c => fin_cases c <;> simp [ConfigItem.number]
      | meterSize k => simp [ConfigItem.number]; omega
      | meterPeriod k => simp [ConfigItem.number]; omega
      | _ => simp [ConfigItem.number]
    · rintro (⟨rfl, rfl⟩ | ⟨rfl, rfl⟩ | ⟨rfl, rfl⟩ | ⟨rfl, rfl⟩ | ⟨rfl, rfl⟩ | ⟨rfl, rfl⟩ | ⟨rfl, rfl⟩
        | ⟨rfl, rfl⟩ | ⟨rfl, rfl⟩ | ⟨rfl, rfl⟩ | ⟨rfl, rfl⟩ | ⟨rfl, rfl⟩ | ⟨rfl, rfl⟩ | ⟨rfl, rfl⟩
        | ⟨rfl, rfl⟩ | ⟨rfl, rfl⟩ | ⟨rfl, rfl⟩ | ⟨rfl, rfl⟩ | ⟨rfl, rfl⟩ | ⟨rfl, rfl⟩
        | ⟨k, rfl, rfl⟩ | ⟨k, rfl, rfl⟩)
      all_goals simp [ConfigItem.number]
      all_goals omega
  case range =>
    refine ⟨fun _ => ?_, ?_, ?_, fun _ => ?_, fun _ => ?_, ?_, ?_, ?_, ?_, fun _ => ?_, ?_, ?_, ?_,
      fun _ => ?_, fun _ => ?_⟩
    all_goals simp [ConfigItem.inRange, and_assoc]
  case config =>
    intro nh nl v3 v2 v1 v0
    refine ⟨fun hno => parseConfig_of_no_item _ _ _ _ fun i hi => hno ?_,
      fun i hi => parseConfig_of_item _ _ _ _ hi⟩
    have hbounds := i.number_bounds
    rw [hi] at hbounds
    exact hbounds
  case key =>
    intro station bh bl
    have hread := parseKey_eq station bh bl
    simp only [Key.inRange_iff] at hread
    exact ⟨fun hfits => hread.trans (if_pos hfits), fun hno => hread.trans (if_neg hno)⟩

end Sys2Proof.Machine

/-! ## Management operations: the judgement of code and length, ECHO and the reads (R9, R10, R145) -/

namespace Sys2Proof.Machine

/-! ### The frame of an operation that executes -/

/-- The end of an operation whose code is asked for, whatever its length. -/
theorem State.whenMgt_executes {s : State} {m : Mgt} (h : s.Executes m) {takes : Byte → Bool}
    (ht : takes m.code = true) (f : Mgt → State → State) : s.whenMgt takes f = .next (f m s) := by
  obtain ⟨hp, hr, _, hs⟩ := h.slots
  exact State.whenMgt_head hp hr hs takes ht f

/-- The end of an operation whose data have the length Table 1-7 asks for. -/
theorem State.whenOp_of_length {s : State} {m : Mgt} {code : Byte} {len : Nat} (h : s.Executes m)
    (hc : m.code = code) (hl : m.data.length = len) (f : Mgt → State → State) :
    s.whenOp code len f = .next (f m s) := by
  rw [State.whenOp_executes h hc, if_pos hl]

/-- Every operation with a row in Table 1-7 judges its length first (R9). -/
theorem exec_judges_length (row : Byte × Nat × Instr) (h : row ∈ mgtLengths) :
    ∃ f, ∀ s, exec row.2.2 s = s.whenOp row.1 row.2.1 f := by
  fin_cases h <;> exact ⟨_, fun _ => rfl⟩

/-- The codes of no operation are 0 and those above 0x1B (Table 1-7). -/
theorem isMgtOp_eq_false_iff (c : Byte) : isMgtOp c = false ↔ c.toNat = 0 ∨ 0x1B < c.toNat := by
  simp only [isMgtOp, Bool.and_eq_false_iff, decide_eq_false_iff_not]
  omega

/-- Settles O35: each command's end goes through the frame of R143, whose first judgements are the code and
the length. -/
theorem mgtIsJudgedByCodeAndLength : Obligations.MgtIsJudgedByCodeAndLength := by
  intro s m h
  refine ⟨fun hc => ?_, fun row hrow hc hl => ?_, fun hc => ?_⟩
  · have hno : isMgtOp m.code = false := (isMgtOp_eq_false_iff m.code).2 hc
    simp only [exec, execUnknownOp]
    exact State.whenMgt_executes h (by simp [hno]) _
  · obtain ⟨f, hf⟩ := exec_judges_length row hrow
    rw [hf, State.whenOp_executes h hc, if_neg hl]
  · simp only [exec, execEcho]
    exact State.whenMgt_executes h (by simp [hc]) _

/-! ### The reports of the reads (Table 1-7) -/

/-- The remaining time in whole ms rounded up, in REFCLK periods (R78, R118). -/
theorem State.msUntil_eq (s : State) (t : Nat) : s.msUntil t = (t - s.now + 31999) / 32000 := by
  have hround : Config.ticksPerMs - 1 = 31999 := by decide
  rw [State.msUntil, hround]

/-- The report of a station (R158). -/
theorem State.stationReport_eq (s : State) (r : Station) :
    s.stationReport r
      = [match r.state with | .idle => 0 | .busy => 1 | .quarantined => 2, byteOf r.streak]
          ++ be32 (match r.hold with | none => 0 | some due => (due - s.now + 31999) / 32000)
          ++ be16 r.timeouts ++ be16 r.unmatched := by
  have hstate : r.state.code = match r.state with | .idle => 0 | .busy => 1 | .quarantined => 2 := by
    cases r.state <;> rfl
  have hhold : (r.hold.map s.msUntil).getD 0
      = match r.hold with | none => 0 | some due => (due - s.now + 31999) / 32000 := by
    cases r.hold with
    | none => rfl
    | some due => rw [Option.map_some, Option.getD_some, State.msUntil_eq]
  rw [State.stationReport, hstate, hhold]

/-- The blocks of sets 3 and 4 are the stations from 1 and from 32 on, twelve at a time (R10). -/
theorem State.counterBlock_stations (s : State) {set part : Byte} (hs : set = 3 ∨ set = 4)
    (hp : part.toNat ≤ 2) :
    s.counterBlock set.toNat part.toNat
      = some (s.stationBlock ((if set = 3 then 1 else 32) + 12 * part.toNat)
          (if part = 2 then 7 else 12)) := by
  have hpart : part = 0 ∨ part = 1 ∨ part = 2 := by bv_omega
  rcases hs with rfl | rfl <;> rcases hpart with rfl | rfl | rfl <;> rfl

/-- No block has a set or a part out of its range (R10). -/
theorem State.counterBlock_eq_none (s : State) {set part : Byte}
    (h : ¬(set.toNat ≤ 2 ∧ part = 0 ∨ (set = 3 ∨ set = 4) ∧ part.toNat ≤ 2)) :
    s.counterBlock set.toNat part.toNat = none := by
  unfold State.counterBlock
  split
  case h_10 => rfl
  all_goals exact absurd (by bv_omega) h

/-- The records of the lease groups stand in the order of their numbers (R83). -/
theorem State.leases_toList (s : State) : s.leases.toList = (List.range' 1 16).map s.lease := by
  apply List.ext_getElem
  · simp
  · intro k hk _
    have hk' : k < 16 := by simpa using hk
    simp [State.lease, Nat.add_comm 1 k, hk']

/-- The record of a lease group (R78, Table 5-3). -/
theorem State.leaseReport_eq (s : State) (l : Option Lease) :
    s.leaseReport l = match l with
      | none => [0, 0, 0]
      | some l => (if l.holder = .a then 1 else 2)
          :: be16 (max 1 ((l.expiry - s.now + 31999) / 32000)) := by
  rcases l with _ | ⟨_ | _, _, _⟩ <;> rfl

/-- The 13 bytes READ_STORE returns: a record for each slot, the operation in flight, the failures and
whether the store is FAULTED (R173). -/
def Store.report (st : Store) : List Byte :=
  [st.slot0.code] ++ be32 st.slot0.generation ++ [st.slot1.code] ++ be32 st.slot1.generation
    ++ [(st.op.map fun op => op.kind.code).getD 0, byteOf st.failures, byteOf st.faulted.toNat]

/-- The bytes of READ_STORE with the codes of Table 1-9 (R173). -/
theorem Store.report_eq (st : Store) :
    let slot := fun x : ImageSlot => match x with
      | .erased => (0 : Byte) :: be32 0
      | .writing => 1 :: be32 0
      | .valid g _ => 2 :: be32 g
    st.report = slot st.slot0 ++ slot st.slot1
      ++ [match st.op.map (·.kind) with
          | none => 0 | some .commit => 1 | some .setLock => 2 | some .eraseProtected => 3,
        byteOf st.failures, if st.faulted then 1 else 0] := by
  intro slot
  have hslot (x : ImageSlot) : slot x = x.code :: be32 x.generation := by cases x <;> rfl
  have hop : (st.op.map fun op => op.kind.code).getD 0 = match st.op.map (·.kind) with
      | none => 0 | some .commit => 1 | some .setLock => 2 | some .eraseProtected => 3 := by
    rcases st.op with _ | ⟨_ | _ | _, _⟩ <;> rfl
  have hfaulted : byteOf st.faulted.toNat = if st.faulted then 1 else 0 := by
    cases st.faulted <;> rfl
  rw [hslot, hslot, ← hop, ← hfaulted]
  simp [Store.report]

/-! ### The answers of the reads -/

/-- Two spellings of the same report are one answer. -/
theorem State.next_answered_congr (s : State) (m : Mgt) (status : Byte) {report report' : List Byte}
    (h : report = report') :
    (.next (s.answered m status report) : Host.Outcome State Fault Refusal)
      = .next (s.answered m status report') := by rw [h]

section Reads
variable {s : State} {m : Mgt} (h : s.Executes m)
include h

/-- READ_CONFIG of an item of Table 1-8 (R156). -/
theorem readConfig_of_item {hi lo : Byte} {i : ConfigItem} (hc : m.code = 0x04) (hd : m.data = [hi, lo])
    (hn : i.number = ofBe16 hi lo) :
    exec .readConfig s = .next (s.answered m 0x00 ([hi, lo] ++ be32 (s.settings.get i))) := by
  have hl : m.data.length = 2 := by simp [hd]
  simp only [exec, execReadConfig, State.whenOp_of_length h hc hl]
  simp only [hd, ConfigItem.ofNumber_eq_some.2 hn]
  rfl

/-- READ_CONFIG of another number (R156). -/
theorem readConfig_of_no_item {hi lo : Byte} (hc : m.code = 0x04) (hd : m.data = [hi, lo])
    (hn : ∀ i : ConfigItem, i.number ≠ ofBe16 hi lo) :
    exec .readConfig s = .next (s.answered m 0x98 []) := by
  have hl : m.data.length = 2 := by simp [hd]
  simp only [exec, execReadConfig, State.whenOp_of_length h hc hl]
  simp only [hd, ConfigItem.ofNumber_eq_none hn]
  rfl

/-- READ_STATION: the report of a field station, BAD_ARGUMENT for another byte (R158). -/
theorem readStation_answers {n : Byte} (hc : m.code = 0x11) (hd : m.data = [n]) :
    exec .readStation s
      = .next (if isFieldStation n then s.answered m 0x00 (s.stationReport (s.station n.toNat))
          else s.answered m 0x99 []) := by
  have hl : m.data.length = 1 := by simp [hd]
  simp only [exec, execReadStation, State.whenOp_of_length h hc hl]
  simp only [hd]
  rfl

/-- READ_COUNTERS of a block that there is (R159). -/
theorem readCounters_of_block {set part : Byte} {block : List Byte} (hc : m.code = 0x12)
    (hd : m.data = [set, part]) (hb : s.counterBlock set.toNat part.toNat = some block) :
    exec .readCounters s = .next (s.answered m 0x00 block) := by
  have hl : m.data.length = 2 := by simp [hd]
  simp only [exec, execReadCounters, State.whenOp_of_length h hc hl]
  simp only [hd, hb]
  rfl

/-- READ_COUNTERS of a block that there is not (R159). -/
theorem readCounters_of_no_block {set part : Byte} (hc : m.code = 0x12) (hd : m.data = [set, part])
    (hb : s.counterBlock set.toNat part.toNat = none) :
    exec .readCounters s = .next (s.answered m 0x99 []) := by
  have hl : m.data.length = 2 := by simp [hd]
  simp only [exec, execReadCounters, State.whenOp_of_length h hc hl]
  simp only [hd, hb]
  rfl

/-- READ_STORE (R173). -/
theorem readStore_answers (hc : m.code = 0x1B) (hd : m.data = []) :
    exec .readStore s = .next (s.answered m 0x00 s.store.report) := by
  have hl : m.data.length = 0 := by simp [hd]
  simp only [exec, execReadStore, State.whenOp_of_length h hc hl]
  rfl

/-- LEASE_STATUS (R83). -/
theorem leaseStatus_answers (hc : m.code = 0x17) (hd : m.data = []) :
    exec .leaseStatus s
      = .next (s.answered m 0x00 ((List.range' 1 16).flatMap fun g => s.leaseReport (s.lease g))) := by
  have hl : m.data.length = 0 := by simp [hd]
  simp only [exec, execLeaseStatus, State.whenOp_of_length h hc hl]
  rw [State.leases_toList, List.flatMap_map]
  rfl

end Reads

/-- Settles O39: the answer of each read, with its report written out in the bytes of Table 1-7. -/
theorem readsReport : Obligations.ReadsReport := by
  intro s m h
  refine ⟨fun hi lo i hc hd hn => readConfig_of_item h hc hd hn,
    fun hi lo hc hd hn => readConfig_of_no_item h hc hd hn, ?station, ?noStation, ?noBlock, ?port, ?field,
    ?stations, ?store, ?leases⟩
  case station =>
    intro n hc hd hlo hhi
    rw [readStation_answers h hc hd, if_pos ((isFieldStation_iff n).2 ⟨hlo, hhi⟩)]
    exact State.next_answered_congr s m 0x00 (s.stationReport_eq _)
  case noStation =>
    intro n hc hd hn
    have hno : ¬isFieldStation n = true := by rw [isFieldStation_iff]; omega
    rw [readStation_answers h hc hd, if_neg hno]
  case noBlock =>
    intro set part hc hd hno
    exact readCounters_of_no_block h hc hd (s.counterBlock_eq_none hno)
  case port =>
    intro p hc hd
    cases p <;> exact readCounters_of_block h hc hd rfl
  case field =>
    intro hc hd
    exact readCounters_of_block h hc hd rfl
  case stations =>
    intro set part hset hpart hc hd
    exact readCounters_of_block h hc hd (s.counterBlock_stations hset hpart)
  case store =>
    intro hc hd
    exact (readStore_answers h hc hd).trans
      (State.next_answered_congr s m 0x00 s.store.report_eq)
  case leases =>
    intro hc hd
    exact (leaseStatus_answers h hc hd).trans
      (State.next_answered_congr s m 0x00 (List.flatMap_congr fun g _ => s.leaseReport_eq (s.lease g)))

end Sys2Proof.Machine

/-! ## Link receivers: characters and pauses (R20, R22 to R25) -/

namespace Sys2Proof.Machine

/-! ### The framing-error counter -/

/-- The count of a framing error is the raise of FRAMING_ERRORS of the link's port (R25). -/
theorem State.countFraming_eq (s : State) (l : Line) : s.countFraming l = s.framingRaised l := by
  cases l <;> rfl

/-! ### The commands of a receiver -/

section Characters
variable {s : State} {l : Line} {c : Character} (hrun : s.phase = .running)
include hrun

/-- A character that is a step of the assembly is CHARACTER_RECEIVED (R22 to R24). -/
theorem characterReceived_of_progress {a : Assembly}
    (h : (s.rx.get l).assembly.receive c = .progress a) :
    exec (.characterReceived l c) s = .next { s with rx := s.rx.set l ⟨a, s.now⟩ } := by
  simp only [exec, execCharacterReceived, State.whenRunning_running hrun, h]
  rfl

/-- A character that is a framing error is FRAMING_ERROR, which counts it (R25). -/
theorem framingError_of_framing {a : Assembly} (h : (s.rx.get l).assembly.receive c = .framing a) :
    exec (.framingError l c) s
      = .next ({ s with rx := s.rx.set l ⟨a, s.now⟩ }.framingRaised l) := by
  simp only [exec, execFramingError, State.whenRunning_running hrun, h, State.countFraming_eq]
  rfl

/-- A pause over the frame gap in HUNT clears the mark of the discard run (R22). -/
theorem frameGapPause_of_hunt {mark : Bool} (h : (s.rx.get l).assembly = .hunt mark) :
    exec (.frameGapPause l) s
      = .next { s with
          now := max s.now (s.gapExceeded l)
          rx := s.rx.set l ⟨.hunt false, (s.rx.get l).pauseFrom⟩ } := by
  simp only [exec, execFrameGapPause, State.whenRunning_running hrun, h]
  rfl

/-- A pause over the frame gap in HEADER or BODY is a framing error that leaves the mark clear (R25). -/
theorem frameGapPause_of_partial {bytes : List Byte}
    (h : (s.rx.get l).assembly = .header bytes ∨ (s.rx.get l).assembly = .body bytes) :
    exec (.frameGapPause l) s
      = .next ({ s with
          now := max s.now (s.gapExceeded l)
          rx := s.rx.set l ⟨.hunt false, (s.rx.get l).pauseFrom⟩ }.framingRaised l) := by
  rcases h with h | h <;>
    simp only [exec, execFrameGapPause, State.whenRunning_running hrun, h, State.countFraming_eq] <;>
    rfl

end Characters

/-- Settles O10: the pause in either state of a partial telegram. -/
theorem pauseTruncates : Obligations.PauseTruncates :=
  fun _ _ _ hrun hpartial => frameGapPause_of_partial hrun hpartial

/-! ### An unwanted character in HUNT (R22) -/

/-- Any character but a sound sync byte is unwanted: the first of a run is a framing error, a further one is
discarded. -/
theorem Assembly.receive_unwanted {c : Character} (hc : c ≠ ⟨0xA7, false⟩) (mark : Bool) :
    (Assembly.hunt mark).receive c = if mark then .progress (.hunt true) else .framing (.hunt true) := by
  have hno : ¬(c.byte = 0xA7 && !c.stopError) = true := by
    rcases c with ⟨b, _ | _⟩
    · simpa using hc
    · simp
  simp only [Assembly.receive, receiveHunt, if_neg hno]

/-- Settles O8: the sync byte, an unwanted character under either value of the mark, and the pause. -/
theorem huntTakesACharacter : Obligations.HuntTakesACharacter := by
  intro s l c mark hrun hhunt
  refine ⟨?sync, ?first, ?further, _, frameGapPause_of_hunt hrun hhunt⟩
  case sync =>
    rintro rfl
    exact characterReceived_of_progress hrun (by rw [hhunt, Assembly.receive_sync])
  case first =>
    rintro hc rfl
    exact framingError_of_framing hrun (by rw [hhunt, Assembly.receive_unwanted hc]; rfl)
  case further =>
    rintro hc rfl
    exact characterReceived_of_progress hrun (by rw [hhunt, Assembly.receive_unwanted hc]; rfl)

/-! ### Framing errors in HEADER and BODY (R23 to R25) -/

/-- The codes 1 to 6 name kinds, the first three with maximum L 32, the others with 56 (Table 1-2). -/
theorem kindOfByte_legal {b : Byte} (h1 : 1 ≤ b.toNat / 16) (h6 : b.toNat / 16 ≤ 6) :
    ∃ k, kindOfByte b = some k ∧ k.maxLength = if b.toNat / 16 ≤ 3 then 32 else 56 := by
  unfold kindOfByte
  generalize b.toNat / 16 = code at h1 h6
  interval_cases code <;> exact ⟨_, rfl, rfl⟩

/-- The other codes are illegal (R3). -/
theorem kindOfByte_illegal {b : Byte} (h : b.toNat / 16 = 0 ∨ 7 ≤ b.toNat / 16) : kindOfByte b = none := by
  unfold kindOfByte Kind.ofCode
  split
  case h_7 => rfl
  all_goals omega

/-- In HEADER a stop-bit error is a framing error that opens a discard run (R25). -/
theorem Assembly.receive_header_stopError (bytes : List Byte) (b : Byte) :
    (Assembly.header bytes).receive ⟨b, true⟩ = .framing (.hunt true) := rfl

/-- In BODY a stop-bit error is a framing error that opens a discard run (R25). -/
theorem Assembly.receive_body_stopError (bytes : List Byte) (b : Byte) :
    (Assembly.body bytes).receive ⟨b, true⟩ = .framing (.hunt true) := rfl

/-- Byte 1 with an illegal kind is a framing error (R23). -/
theorem Assembly.receive_illegal_kind {bytes : List Byte} {b : Byte} (h1 : bytes.length = 1)
    (hk : kindOfByte b = none) : (Assembly.header bytes).receive ⟨b, false⟩ = .framing (.hunt true) := by
  simp [Assembly.receive, receiveHeader, h1, hk]

/-- Byte 8 above the kind's maximum L is a framing error (R23). -/
theorem Assembly.receive_excess_length {bytes : List Byte} {len kb : Byte} {k : Kind}
    (h8 : bytes.length = 8) (h1 : bytes[1]? = some kb) (hk : kindOfByte kb = some k)
    (hl : k.maxLength < len.toNat) :
    (Assembly.header bytes).receive ⟨len, false⟩ = .framing (.hunt true) := by
  simp only [Assembly.receive, receiveHeader, h8, getElem?_append_of_some h1, Option.bind_some, hk,
    if_neg (Nat.not_le.2 hl)]
  rfl

/-- Bytes whose last two are not the check over bytes 1 to 8 + L spell no telegram (R2, R24). -/
theorem parseTelegram_of_wrong_check {all : List Byte} {len : Byte} (h8 : all[8]? = some len)
    (h : all.drop (9 + len.toNat) ≠ be16 (crc ((all.drop 1).take (8 + len.toNat))).toNat) :
    parseTelegram all = none := by
  unfold parseTelegram
  split
  case h_2 => rfl
  case h_1 sync b1 dest source tag oh ol code len' rest =>
    obtain rfl : len' = len := by simpa using h8
    have hcheck : rest.drop len'.toNat
        ≠ be16 (crc ([b1, dest, source, tag, oh, ol, code, len'] ++ rest.take len'.toNat)).toNat := by
      rw [Nat.add_comm 9, Nat.add_comm 8] at h
      exact h
    split
    · rfl
    · exact if_neg hcheck

/-- A wrong check is a framing error that leaves the mark clear (R24, R25). -/
theorem Assembly.receive_wrong_check {bytes : List Byte} {len last : Byte} (h8 : bytes[8]? = some len)
    (h : bytes.length + 1 = 11 + len.toNat)
    (hcheck : (bytes ++ [last]).drop (9 + len.toNat)
      ≠ be16 (crc (((bytes ++ [last]).drop 1).take (8 + len.toNat))).toNat) :
    (Assembly.body bytes).receive ⟨last, false⟩ = .framing (.hunt false) := by
  have hall := getElem?_append_of_some h8 [last]
  simp [Assembly.receive, receiveBody, hall, h, parseTelegram_of_wrong_check hall hcheck]

/-- Settles O9: what the receiver makes of the character, by its place in the assembly. -/
theorem assemblyTakesACharacter : Obligations.AssemblyTakesACharacter := by
  intro s l b bytes hrun goesTo fails
  refine ⟨fun hheader => ⟨?kind, ?illegalKind, ?plain, ?length⟩, fun hbody len h8 => ⟨?inside, ?last⟩,
    ?stopError⟩
  case kind =>
    intro h1 hlow hhigh
    obtain ⟨k, hk, _⟩ := kindOfByte_legal hlow hhigh
    obtain ⟨sync, rfl⟩ := List.length_eq_one_iff.1 h1
    exact characterReceived_of_progress hrun (by rw [hheader, Assembly.receive_kind hk]; rfl)
  case illegalKind =>
    intro h1 hcode
    exact framingError_of_framing hrun
      (by rw [hheader, Assembly.receive_illegal_kind h1 (kindOfByte_illegal hcode)])
  case plain =>
    intro h1 h8
    exact characterReceived_of_progress hrun (by rw [hheader, Assembly.receive_header b h1 h8])
  case length =>
    intro b1 h8 h1 hlow hhigh most
    obtain ⟨k, hk, hmost⟩ := kindOfByte_legal hlow hhigh
    refine ⟨fun hl => characterReceived_of_progress hrun ?_, fun hl => framingError_of_framing hrun ?_⟩
    · rw [hheader, Assembly.receive_length h8 h1 hk (hmost ▸ hl)]
    · rw [hheader, Assembly.receive_excess_length h8 h1 hk (hmost ▸ hl)]
  case inside =>
    intro h
    exact characterReceived_of_progress hrun (by rw [hbody, Assembly.receive_body b h8 h])
  case last =>
    intro h hcheck
    exact framingError_of_framing hrun (by rw [hbody, Assembly.receive_wrong_check h8 h hcheck])
  case stopError =>
    rintro (hpartial | hpartial)
    · exact framingError_of_framing hrun (by rw [hpartial, Assembly.receive_header_stopError])
    · exact framingError_of_framing hrun (by rw [hpartial, Assembly.receive_body_stopError])

end Sys2Proof.Machine

/-! ## Control links: delivery and supervision (R24, R26, R28, R29, R127, R142) -/

namespace Sys2Proof.Machine

/-! ### What a request for a notice on the other port leaves at a port -/

@[simp] theorem State.output_request_other (s : State) (f : NoticeFlag) (d : Detail) (p : Port) :
    (s.request f d p.other).output p = s.output p := by
  obtain ⟨_, _, _, _, _, hother, _⟩ := s.request_keeps f d p.other
  simpa using hother

/-! ### The link supervisor -/

/-- The state in which the link supervisor of port `p` leaves the relay, before a link that goes UP is
announced (R28). -/
def State.linkUp (s : State) (p : Port) : State :=
  { s with links := s.links.set p (.up (s.now + 32000 * s.settings.silenceTime)) }

/-- The supervisor starts the silence timer; a link that was DOWN goes UP, which the other port is told
(R28). -/
theorem State.supervise_eq (s : State) (p : Port) :
    s.supervise p
      = if s.links.get p = .down then (s.linkUp p).request .peerUp .nothing p.other else s.linkUp p := by
  have hdue : s.inMs s.settings.silenceTime = s.now + 32000 * s.settings.silenceTime := by
    simp only [State.inMs, msTicks, Nat.mul_comm]
  unfold State.supervise
  rw [hdue]
  split <;> rename_i hlink <;> simp only [hlink, reduceCtorEq, if_true, if_false] <;> rfl

/-- The supervisor leaves the port's own output unit as it is (R28). -/
@[simp] theorem State.supervise_output (s : State) (p : Port) : (s.supervise p).output p = s.output p := by
  rw [State.supervise_eq]
  split
  · rw [State.output_request_other]
    rfl
  · rfl

/-- The supervisor changes links, output units and notice states, and nothing else (R28). -/
theorem State.supervise_frame (s : State) (p : Port) :
    ∃ links outputs notices,
      s.supervise p = { s with links := links, outputs := outputs, notices := notices } := by
  rw [State.supervise_eq]
  split
  · obtain ⟨outputs, notices, h⟩ := (s.linkUp p).request_frame .peerUp .nothing p.other
    exact ⟨_, outputs, notices, h⟩
  · exact ⟨_, s.outputs, s.notices, rfl⟩

@[simp] theorem State.supervise_now (s : State) (p : Port) : (s.supervise p).now = s.now := by
  obtain ⟨_, _, _, h⟩ := s.supervise_frame p; rw [h]

@[simp] theorem State.supervise_settings (s : State) (p : Port) :
    (s.supervise p).settings = s.settings := by
  obtain ⟨_, _, _, h⟩ := s.supervise_frame p; rw [h]

@[simp] theorem State.supervise_toScreen (s : State) (p : Port) :
    (s.supervise p).toScreen = s.toScreen := by
  obtain ⟨_, _, _, h⟩ := s.supervise_frame p; rw [h]

@[simp] theorem State.supervise_slots (s : State) (p : Port) : (s.supervise p).slots = s.slots := by
  obtain ⟨_, _, _, h⟩ := s.supervise_frame p; rw [h]

@[simp] theorem State.supervise_session (s : State) (p : Port) : (s.supervise p).session = s.session := by
  obtain ⟨_, _, _, h⟩ := s.supervise_frame p; rw [h]

@[simp] theorem State.supervise_counters (s : State) (p : Port) :
    (s.supervise p).counters = s.counters := by
  obtain ⟨_, _, _, h⟩ := s.supervise_frame p; rw [h]

/-! ### The management slots and the session -/

/-- The idle timer of the port's own session is started again (R142, R148). -/
theorem State.touchSession_eq (s : State) (p : Port) :
    s.touchSession p = s.withSession (s.session.map fun x =>
      if x.owner = p then { x with idle := s.now + 32000000 * s.settings.sessionIdle } else x) := by
  have hidle : s.inMs (s.settings.sessionIdle * 1000) = s.now + 32000000 * s.settings.sessionIdle := by
    simp only [State.inMs, msTicks, Config.ticksPerMs]
    omega
  have hsame : s = s.withSession s.session := rfl
  unfold State.touchSession
  split <;> rename_i hsession
  · split <;> rename_i howner
    · simp [hsession, howner, hidle]
    · simpa [hsession, howner] using hsame
  · simpa [hsession] using hsame

/-- An MGT that finds a free management slot takes it (R142). -/
theorem State.offerMgt_of_free {s : State} {m : Mgt} (h : s.slots.length < 2) :
    s.offerMgt m = { s.touchSession m.port with slots := s.slots ++ [m] } := by
  rw [State.offerMgt, State.touchSession_eq, State.withSession_slots]
  exact if_pos h

/-- An MGT that finds no free management slot is answered SLOTS_FULL (R142). -/
theorem State.offerMgt_of_full {s : State} {m : Mgt} (h : 2 ≤ s.slots.length) :
    s.offerMgt m = (s.touchSession m.port).answer m.port [m.reply 0x9C []] := by
  rw [State.offerMgt, State.touchSession_eq, State.withSession_slots]
  exact if_neg (Nat.not_lt.2 h)

/-! ### Delivery by kind (R26, R127) -/

/-- A REQ takes a reservation, when there is one, and waits for its screening. -/
theorem State.deliver_req {s : State} {p : Port} {t : Telegram} (hk : t.kind = .req)
    (hfree : (s.output p).used < 40) : s.deliver p t = (s.reserve p).offerReq p t := by
  simp only [State.deliver, hk]
  exact if_pos hfree

/-- An MGT takes a reservation, when there is one, and is offered to the management slots. -/
theorem State.deliver_mgt {s : State} {p : Port} {t : Telegram} (hk : t.kind = .mgt)
    (hfree : (s.output p).used < 40) : s.deliver p t = (s.reserve p).offerMgt (t.toMgt p) := by
  simp only [State.deliver, hk]
  exact if_pos hfree

/-- Without a reservation left either is counted as an overrun. -/
theorem State.deliver_overrun {s : State} {p : Port} {t : Telegram} (hk : t.kind = .req ∨ t.kind = .mgt)
    (hfull : 40 ≤ (s.output p).used) : s.deliver p t = s.count p .overruns := by
  rcases hk with hk | hk <;> simp only [State.deliver, hk] <;> exact if_neg (Nat.not_lt.2 hfull)

/-- Every other kind is wrong on a control port. -/
theorem State.deliver_wrongKind {s : State} {p : Port} {t : Telegram} (hreq : t.kind ≠ .req)
    (hmgt : t.kind ≠ .mgt) : s.deliver p t = s.count p .wrongKind := by
  unfold State.deliver
  split
  case h_1 hk => exact absurd hk hreq
  case h_2 hk => exact absurd hk hmgt
  all_goals rfl

/-- The relay after the last byte of a telegram on control port `p` has been taken, the telegram counted and
reported to the link supervisor, before it is delivered (R24, R26, R28). -/
def State.reported (s : State) (p : Port) : State :=
  ((s.withAssembly (.control p) (.hunt false)).count p .telegramsIn).supervise p

/-- CONTROL_TELEGRAM reports the telegram and then delivers it (R26). -/
theorem controlTelegram_delivers {s : State} {p : Port} {last : Byte} {t : Telegram}
    (hrun : s.phase = .running)
    (ht : (s.rx.get (.control p)).assembly.receive ⟨last, false⟩ = .telegram t) :
    exec (.controlTelegram p last) s = .next ((s.reported p).deliver p t) := by
  simp only [exec, execControlTelegram, State.whenRunning_running hrun, ht]
  rfl

@[simp] theorem State.reported_output (s : State) (p : Port) : (s.reported p).output p = s.output p :=
  State.supervise_output _ p

@[simp] theorem State.reported_now (s : State) (p : Port) : (s.reported p).now = s.now :=
  State.supervise_now _ p

@[simp] theorem State.reported_settings (s : State) (p : Port) : (s.reported p).settings = s.settings :=
  State.supervise_settings _ p

@[simp] theorem State.reported_toScreen (s : State) (p : Port) : (s.reported p).toScreen = s.toScreen :=
  State.supervise_toScreen _ p

@[simp] theorem State.reported_slots (s : State) (p : Port) : (s.reported p).slots = s.slots :=
  State.supervise_slots _ p

@[simp] theorem State.reported_session (s : State) (p : Port) : (s.reported p).session = s.session :=
  State.supervise_session _ p

/-- A reservation at the port is one more than it had (R127). -/
theorem State.reported_reserve (s : State) (p : Port) :
    (s.reported p).reserve p
      = (s.reported p).withOutput p { s.output p with reserved := (s.output p).reserved + 1 } := by
  rw [State.reserve, State.reported_output]

/-- The counters of the port after the telegram was counted (R24). -/
theorem State.reported_counters (s : State) (p : Port) :
    (s.reported p).counters.get p
      = { s.counters.get p with telegramsIn := (s.counters.get p).telegramsIn + 1 } := by
  rw [State.reported, State.supervise_counters]
  exact PerPort.get_set_same _ _ _

/-- The session's idle timer under a reservation just taken is the one of the session before it (R142). -/
theorem State.reported_touchSession (s : State) (p : Port) :
    ((s.reported p).reserve p).touchSession p
      = ((s.reported p).reserve p).withSession (s.session.map fun x =>
          if x.owner = p then { x with idle := s.now + 32000000 * s.settings.sessionIdle } else x) := by
  simp only [State.touchSession_eq, State.reserve_session, State.reserve_now, State.reserve_settings,
    State.reported_session, State.reported_now, State.reported_settings]

/-- Settles O11: one supervision of the counted telegram, then the delivery of its kind. -/
theorem controlTelegramIsDelivered : Obligations.ControlTelegramIsDelivered := by
  intro s p last t hrun ht heard up reserved m touched
  have hup : s.reported p = up := State.supervise_eq _ p
  have hreserved : (s.reported p).reserve p = reserved := by rw [State.reported_reserve, hup]
  have hslots : ((s.reported p).reserve p).slots = s.slots := by simp
  have htouched : ((s.reported p).reserve p).touchSession p = { reserved with session := touched } := by
    rw [State.reported_touchSession, hreserved]
    rfl
  have hused : ((s.reported p).output p).used = (s.output p).used := by rw [State.reported_output]
  rw [controlTelegram_delivers hrun ht]
  refine ⟨fun hk hfree => ?req, fun hk hfree hfew => ?slot, fun hk hfree hmany => ?slotsFull,
    fun hk hfull => ?overrun, fun hreq hmgt => ?wrongKind⟩
  case req =>
    rw [State.deliver_req hk (hused ▸ hfree), State.offerReq, State.reserve_toScreen,
      State.reported_toScreen, hreserved]
  case slot =>
    rw [State.deliver_mgt hk (hused ▸ hfree), State.offerMgt_of_free (by rwa [hslots]), hslots]
    exact congrArg (fun u : State => Host.Outcome.next { u with slots := s.slots ++ [m] }) htouched
  case slotsFull =>
    rw [State.deliver_mgt hk (hused ▸ hfree), State.offerMgt_of_full (by rwa [hslots])]
    exact congrArg (fun u : State => Host.Outcome.next (u.answer p [m.reply 0x9C []])) htouched
  case overrun =>
    rw [State.deliver_overrun hk (hused ▸ hfull), ← hup, State.count, State.reported_counters]
    rfl
  case wrongKind =>
    rw [State.deliver_wrongKind hreq hmgt, ← hup, State.count, State.reported_counters]
    rfl

/-! ### A link falls silent (R29) -/

/-- Settles O12: the running out at the supervisor, and the notice unit's taking of its announcement. -/
theorem silenceBringsTheLinkDown : Obligations.SilenceBringsTheLinkDown := by
  refine ⟨fun s p due hrun hup => ?expiry, fun s p n hrun hdown => ?notice⟩
  case expiry =>
    simp only [exec, execSilenceTimerExpiry, State.whenRunning_running hrun, State.fallSilent, hup]
    rfl
  case notice =>
    simp only [exec, execSilenceTimerExpiry, State.whenRunning_running hrun, State.notePeerDown, hdown]

end Sys2Proof.Machine

/-! ## The field link: the end of a transmission, RSPs and EVTs (R27, R33, R111 to R114, R119, R122, R132) -/

namespace Sys2Proof.Machine

/-! ### The end of a field transmission (R33, R111) -/

/-- The moment of the announced end, and the TIMEOUT_CLASS values live at it (R33, R111). -/
theorem State.announced_eq (s : State) (x : FieldSend) :
    s.announced x = ⟨x.tag, x.station,
      x.startedAt + (11 + x.telegram.data.length) * 10 * (32000000 / s.runningRate.get .field),
      match x.classes with
      | some classes => classes
      | none => s.settings.timeoutClass⟩ := by
  cases hx : x.classes <;> simp only [State.announced, hx] <;> rfl

/-- The deadline counts the ms of the entry's timeout class from the end of the transmission (R111). -/
theorem FieldEnd.deadline_eq (a : FieldEnd) (cls : Nat) :
    a.deadline cls = a.ended + 32000 * (a.classes.toList[cls]?).getD 0 := by
  rw [FieldEnd.deadline, msTicks, Nat.mul_comm, Vector.getElem?_toList]

/-- The entry whose transmission ended becomes WAITING (R111). -/
theorem Entry.sent_eq (a : FieldEnd) (e : Entry) :
    e.sent a = if e.relayTag = a.tag ∧ e.station = a.station ∧ e.state = .sending then
        { e with state := .waiting (a.ended + 32000 * (a.classes.toList[e.timeoutClass]?).getD 0) }
      else e := by
  simp only [Entry.sent, Bool.and_eq_true, decide_eq_true_eq, and_assoc, FieldEnd.deadline_eq]

/-- Settles O24: the end, its taking, and neither. -/
theorem fieldTransmissionEnds : Obligations.FieldTransmissionEnds := by
  intro s hrun
  simp only [exec, execFieldTransmissionEnd, State.whenRunning_running hrun]
  refine ⟨fun x hend htx => ?ends, fun a hend => ?taken, fun hend htx => ?idle⟩
  case ends =>
    simp only [hend, htx, State.announced_eq]
    rfl
  case taken =>
    simp only [hend, funext (Entry.sent_eq a)]
  case idle =>
    simp only [hend, htx]

/-! ### A field telegram is heard (R24, R27, R119) -/

/-- Counting a field telegram and taking it as a sign of life is hearing it (R119). -/
theorem State.heard_eq (s : State) (t : Telegram) :
    (((s.withAssembly .field (.hunt false)).countField .telegramsIn).signOfLife t) = s.heard t := by
  have hreturns : ((s.withAssembly .field (.hunt false)).countField .telegramsIn).returnsStation t = true
      ↔ 1 ≤ t.source.toNat ∧ t.source.toNat ≤ 62 ∧ (s.station t.source.toNat).state = .quarantined := by
    simp only [State.returnsStation, Bool.and_eq_true, isFieldStation_iff, decide_eq_true_eq, and_assoc]
    rfl
  simp only [State.signOfLife, State.heard, hreturns]
  rfl

/-- The records of the stations do not change with a request for a notice. -/
@[simp] theorem State.station_request (s : State) (f : NoticeFlag) (d : Detail) (p : Port) (n : Nat) :
    (s.request f d p).station n = s.station n := by
  obtain ⟨_, _, h⟩ := s.request_frame f d p
  rw [h]
  rfl

@[simp] theorem State.heard_entries (s : State) (t : Telegram) : (s.heard t).entries = s.entries := by
  unfold State.heard; dsimp only; split <;> simp

@[simp] theorem State.heard_mode (s : State) (t : Telegram) : (s.heard t).mode = s.mode := by
  unfold State.heard; dsimp only; split <;> simp

@[simp] theorem State.heard_table (s : State) (t : Telegram) : (s.heard t).table = s.table := by
  unfold State.heard; dsimp only; split <;> simp

/-- A telegram that is heard is counted (R24). -/
theorem State.heard_fieldCounters (s : State) (t : Telegram) :
    (s.heard t).fieldCounters
      = { s.fieldCounters with telegramsIn := s.fieldCounters.telegramsIn + 1 } := by
  unfold State.heard; dsimp only; split <;> simp

/-- A station's return keeps its totals (R119). -/
theorem State.heard_unmatched (s : State) (t : Telegram) (n : Nat) :
    ((s.heard t).station n).unmatched = (s.station n).unmatched := by
  have hseen (rx : PerLine Receiver) (c : FieldCounters) :
      State.station { s with rx := rx, fieldCounters := c } n = s.station n := rfl
  unfold State.heard
  dsimp only
  split
  · rw [State.station_request, State.station_request, State.station_withStation]
    split
    case isTrue h => rw [h.1]
    case isFalse => rw [hseen]
  · rw [hseen]

/-- FIELD_TELEGRAM of an RSP: heard, then matched when it is for the relay, else of a wrong kind (R27, R112). -/
theorem fieldTelegram_rsp {s : State} {last : Byte} {t : Telegram} (hrun : s.phase = .running)
    (ht : (s.rx.get .field).assembly.receive ⟨last, false⟩ = .telegram t) (hk : t.kind = .rsp) :
    exec (.fieldTelegram last) s
      = .next (if t.dest = 63 then (s.heard t).takeRsp t else (s.heard t).countField .wrongKind) := by
  simp only [exec, execFieldTelegram, State.whenRunning_running hrun, ht, State.takeFieldTelegram,
    State.heard_eq, hk]

/-- FIELD_TELEGRAM of an EVT: heard, then routed (R27, R122). -/
theorem fieldTelegram_evt {s : State} {last : Byte} {t : Telegram} (hrun : s.phase = .running)
    (ht : (s.rx.get .field).assembly.receive ⟨last, false⟩ = .telegram t) (hk : t.kind = .evt) :
    exec (.fieldTelegram last) s = .next ((s.heard t).routeEvt t) := by
  simp only [exec, execFieldTelegram, State.whenRunning_running hrun, ht, State.takeFieldTelegram,
    State.heard_eq, hk]

/-! ### A field RSP (R112 to R114) -/

/-- What step 2 of R112 asks of an entry. -/
theorem Entry.matchesRsp_iff (rsp : Telegram) (e : Entry) :
    e.matchesRsp rsp = true ↔ e.station = rsp.source ∧ e.relayTag = rsp.tag ∧ e.state ≠ .sending := by
  simp only [Entry.matchesRsp, Bool.and_eq_true, decide_eq_true_eq, and_assoc]
  tauto

/-- A search finds the one element that it accepts. -/
theorem find?_of_unique {α : Type} {accepts : α → Bool} {l : List α} {x : α} (hx : x ∈ l)
    (hacc : accepts x = true) (honly : ∀ y ∈ l, accepts y = true → y = x) : l.find? accepts = some x := by
  cases hfind : l.find? accepts with
  | none => exact absurd hacc (List.find?_eq_none.1 hfind x hx)
  | some y => rw [honly y (List.mem_of_find?_eq_some hfind) (List.find?_some hfind)]

/-- An RSP that one entry matches is that entry's (R112). -/
theorem State.takeRsp_of_match {s : State} {rsp : Telegram} {e : Entry} (he : e ∈ s.entries)
    (hmatch : e.matchesRsp rsp = true) (honly : ∀ e' ∈ s.entries, e'.matchesRsp rsp = true → e' = e) :
    s.takeRsp rsp = s.matched e rsp := by
  rw [State.takeRsp, find?_of_unique he hmatch honly]

/-- An RSP that no entry matches is unmatched (R114). -/
theorem State.takeRsp_of_no_match {s : State} {rsp : Telegram}
    (hno : ∀ e ∈ s.entries, ¬e.matchesRsp rsp = true) : s.takeRsp rsp = s.unmatchedRsp rsp := by
  rw [State.takeRsp, List.find?_eq_none.2 hno]

/-- A 16-bit count stays at 65535 (R114). -/
theorem raise16_eq (n : Nat) : raise16 n = min 65535 (n + 1) := by
  unfold raise16
  split <;> omega

/-- An unmatched RSP of a field station is counted at its record too (R114). -/
theorem State.unmatchedRsp_station {s : State} {rsp : Telegram} (h1 : 1 ≤ rsp.source.toNat)
    (h62 : rsp.source.toNat ≤ 62) :
    s.unmatchedRsp rsp = (s.countField .unmatched).withStation rsp.source.toNat
      { s.station rsp.source.toNat with
        unmatched := min 65535 ((s.station rsp.source.toNat).unmatched + 1) } := by
  rw [State.unmatchedRsp, ← raise16_eq]
  exact if_pos ((isFieldStation_iff _).2 ⟨h1, h62⟩)

/-- An unmatched RSP of another source has no record to be counted at (R114). -/
theorem State.unmatchedRsp_other {s : State} {rsp : Telegram}
    (h : rsp.source.toNat = 0 ∨ 62 < rsp.source.toNat) : s.unmatchedRsp rsp = s.countField .unmatched := by
  have hno : ¬isFieldStation rsp.source = true := by
    rw [isFieldStation_iff]
    omega
  exact if_neg hno

/-- Settles O25: the RSP is heard, and then matched, unmatched or of a wrong kind. -/
theorem fieldRspIsMatchedOrCounted : Obligations.FieldRspIsMatchedOrCounted := by
  intro s last t hrun ht hk live names
  have hnames (e : Entry) : e.matchesRsp t = true ↔ names e := e.matchesRsp_iff t
  have hcounters := s.heard_fieldCounters t
  rw [fieldTelegram_rsp hrun ht hk]
  refine ⟨fun hdest e he hname honly => ?matched, fun hdest hno h1 h62 => ?station,
    fun hdest hno hsource => ?other, fun hdest => ?wrongKind⟩
  case matched =>
    have hmatch := State.takeRsp_of_match (s := live) (by rwa [State.heard_entries])
      ((hnames e).2 hname) (by simpa only [live, State.heard_entries, hnames] using honly)
    obtain ⟨hstation, _, _⟩ := hname
    rw [if_pos hdest, hmatch, State.matched, hstation, State.heard_entries]
    rfl
  case station =>
    rw [if_pos hdest, State.takeRsp_of_no_match (by simpa only [State.heard_entries, hnames] using hno),
      State.unmatchedRsp_station h1 h62, State.heard_unmatched, State.countField,
      hcounters]
    rfl
  case other =>
    rw [if_pos hdest, State.takeRsp_of_no_match (by simpa only [State.heard_entries, hnames] using hno),
      State.unmatchedRsp_other hsource, State.countField, hcounters]
    rfl
  case wrongKind =>
    rw [if_neg hdest, State.countField, hcounters]
    rfl

/-! ### A field EVT (R132, R133) -/

/-- In ISOLATED an EVT is dropped (R132, step 1). -/
theorem State.routeEvt_isolated {s : State} {evt : Telegram} (h : s.mode = .isolated) :
    s.routeEvt evt = s.countField .eventsDropped := by
  simp [State.routeEvt, State.routeOf, State.countRoute, State.offerTo, Route.includes, h]

/-- In SCREENING the route of an EVT is that of its rule, and none without a rule (R132, step 2). -/
theorem State.routeOf_screening {s : State} {evt : Telegram} (h : s.mode = .screening) :
    s.routeOf evt = match s.table.lookup ⟨evt.source, evt.object.toNat / 16⟩ with
      | some (_, e) => e.route
      | none => .none := by
  simp only [State.routeOf, h, reduceCtorEq, if_false]
  rfl

/-- An EVT whose rule names no port, or that has no rule, is counted (R132, step 2). -/
theorem State.routeEvt_noRule {s : State} {evt : Telegram} (hm : s.mode = .screening)
    (hr : s.routeOf evt = .none) : s.routeEvt evt = s.countField .eventsNoRule := by
  simp [State.routeEvt, State.countRoute, State.offerTo, Route.includes, hm, hr]

/-- An EVT whose rule names a port is offered at each port that it names (R132, step 3). -/
theorem State.routeEvt_of_route {s : State} {evt : Telegram} (hm : s.mode = .screening)
    (hr : s.routeOf evt ≠ .none) :
    s.routeEvt evt = (s.offerTo evt (s.routeOf evt) .a).offerTo evt (s.routeOf evt) .b := by
  simp [State.routeEvt, State.countRoute, hm, hr]

/-- Settles O26: the EVT is heard and routed by its mode and rule; the two cases of a copy's offer. -/
theorem fieldEvtIsRouted : Obligations.FieldEvtIsRouted := by
  refine ⟨fun s last t hrun ht hk => ?routed, fun s p t => ⟨fun hroom => if_pos hroom, fun hfull => ?full⟩⟩
  case full => exact if_neg (Nat.not_lt.2 hfull)
  case routed =>
    intro live found
    have hcounters := s.heard_fieldCounters t
    have hmode (h : s.mode = .screening) : live.mode = .screening := by rwa [State.heard_mode]
    rw [fieldTelegram_evt hrun ht hk]
    refine ⟨fun hisolated => ?isolated, fun hscreening hno => ?noRule, fun w e hscreening hfound => ?rule⟩
    case isolated =>
      rw [State.routeEvt_isolated (by rwa [State.heard_mode]), State.countField, hcounters]
      rfl
    case noRule =>
      have hroute : live.routeOf t = .none := by
        rw [State.routeOf_screening (hmode hscreening), State.heard_table]
        split
        case h_1 w e hfound => exact hno w e hfound
        case h_2 => rfl
      rw [State.routeEvt_noRule (hmode hscreening) hroute, State.countField, hcounters]
      rfl
    case rule =>
      have hroute : live.routeOf t = e.route := by
        rw [State.routeOf_screening (hmode hscreening), State.heard_table]
        simp only [found] at hfound
        rw [hfound]
      have hoffers (h : e.route ≠ .none) :
          live.routeEvt t = (live.offerTo t e.route .a).offerTo t e.route .b := by
        rw [State.routeEvt_of_route (hmode hscreening) (hroute ▸ h), hroute]
      refine ⟨fun h => ?_, fun h => ?_, fun h => ?_⟩
      all_goals
        rw [hoffers (by simp [h]), h]
        rfl

end Sys2Proof.Machine

/-! ## The start values (R176, Table 9-3) -/

namespace Sys2Proof.Machine

/-- No lease group is held after reset (R91). -/
theorem State.reset_lease (g : Nat) : State.reset.lease g = none := by
  cases g with
  | zero => rfl
  | succ k =>
    simp only [State.lease, State.reset, Vector.getElem?_replicate]
    split <;> rfl

/-- Every station is IDLE with totals 0 after reset (R124). -/
theorem State.reset_station (n : Nat) : State.reset.station n = ⟨.idle, 0, none, 0, 0⟩ := by
  cases n with
  | zero => rfl
  | succ k =>
    simp only [State.station, State.reset, Vector.getElem?_replicate]
    split <;> rfl

/-- Settles O3: the fields of State.reset, per port, per link, per group, station and meter. -/
theorem resetHoldsTheStartValues : Obligations.ResetHoldsTheStartValues := by
  refine ⟨?rx, ?links, ?table, rfl, rfl, ?meters, State.reset_lease, rfl, rfl, rfl, rfl, rfl, rfl, rfl,
    State.reset_station, ?outputs, ?notices, rfl, rfl, ?counters, rfl, rfl, ?rates, rfl, rfl, rfl, ?items, rfl,
    rfl, rfl, rfl, rfl, rfl, rfl, rfl, ?bank⟩
  case rx => rintro ((_ | _) | _) <;> rfl
  case links => rintro (_ | _) <;> rfl
  case table => intro b w; simp [State.reset, Table.blank]
  case meters => intro n; simp [State.reset]
  case outputs => rintro (_ | _) <;> exact ⟨rfl, rfl, rfl, rfl, rfl, rfl⟩
  case notices => rintro (_ | _) <;> exact ⟨rfl, rfl, rfl, rfl, rfl, rfl, rfl, rfl⟩
  case counters => rintro (_ | _) <;> rfl
  case rates => rintro ((_ | _) | _) <;> exact ⟨rfl, rfl⟩
  case items => rintro (_ | _) <;> exact ⟨rfl, rfl⟩
  case bank => intro n; simp [State.reset, Settings.get, Settings.default]

end Sys2Proof.Machine

/-! ## The rule table: its ways, its lookups and its invariant (R35 to R39, R41, R52) -/

namespace Sys2Proof.Machine

/-! ### Ways in the order of their numbers -/

theorem mem_ways (w : Fin 4) : w ∈ ([0, 1, 2, 3] : List (Fin 4)) := List.mem_finRange w

/-- The first way that a search accepts is the lowest one. -/
theorem find?_ways_eq_some {accepts : Fin 4 → Bool} {w : Fin 4} :
    ([0, 1, 2, 3] : List (Fin 4)).find? accepts = some w
      ↔ accepts w = true ∧ ∀ u < w, ¬accepts u = true := by
  have hways : ([0, 1, 2, 3] : List (Fin 4)) = List.finRange 4 := rfl
  rw [hways, List.find?_eq_some_iff_getElem]
  refine and_congr_right fun _ => ⟨?_, fun h => ⟨w.val, by simp, by simp, fun j hj => ?_⟩⟩
  · rintro ⟨i, hi, rfl, hbefore⟩ u hu
    simpa using hbefore u.val (by simpa [Fin.lt_def] using hu)
  · simpa using h ⟨j, by omega⟩ hj

/-- A way is open to a mark by the side of P it lies on (R38, Table 3-3). -/
theorem wayOpen_iff (p : Nat) (prot : Bool) (w : Fin 4) :
    wayOpen p prot w = true ↔ if prot then w.val < p else p ≤ w.val := by
  cases prot <;> simp [wayOpen]

/-- An entry of this mark can be put at the way: it is on the mark's side of P, and free (R38, R41). -/
def Bucket.CanHold (b : Bucket) (p : Nat) (prot : Bool) (w : Fin 4) : Prop :=
  (if prot then w.val < p else p ≤ w.val) ∧ b[w] = none

theorem Bucket.canHold_iff (b : Bucket) (p : Nat) (prot : Bool) (w : Fin 4) :
    (wayOpen p prot w && b[w].isNone) = true ↔ b.CanHold p prot w := by
  rw [Bool.and_eq_true, wayOpen_iff, Option.isNone_iff_eq_none, Bucket.CanHold]

/-- The way an ADD takes is the lowest that can hold its entry (R41). -/
theorem Bucket.freeWay_eq_some {b : Bucket} {p : Nat} {prot : Bool} {w : Fin 4} :
    b.freeWay p prot = some w ↔ b.CanHold p prot w ∧ ∀ u < w, ¬b.CanHold p prot u := by
  simp only [Bucket.freeWay, find?_ways_eq_some, Bucket.canHold_iff]

theorem Bucket.freeWay_eq_none {b : Bucket} {p : Nat} {prot : Bool} :
    b.freeWay p prot = none ↔ ∀ w, ¬b.CanHold p prot w := by
  simp only [Bucket.freeWay, List.find?_eq_none, Bucket.canHold_iff]
  exact ⟨fun h w => h w (mem_ways w), fun h w _ => h w⟩

/-- The placed entries are those of every bucket, each with its way. -/
theorem Table.mem_placed {t : Table} {w : Fin 4} {e : RuleEntry} :
    (w, e) ∈ t.placed ↔ ∃ b : Fin 128, t[b][w] = some e := by
  simp only [Table.placed, List.mem_flatMap, List.mem_filterMap, Vector.mem_toList_iff,
    Option.map_eq_some_iff, Prod.mk.injEq]
  constructor
  · rintro ⟨bucket, hbucket, v, _, x, hx, rfl, rfl⟩
    obtain ⟨i, hi, rfl⟩ := Vector.getElem_of_mem hbucket
    exact ⟨⟨i, hi⟩, hx⟩
  · rintro ⟨b, hb⟩
    exact ⟨t[b], Vector.getElem_mem b.isLt, w, mem_ways w, e, hb, rfl, rfl⟩

/-- A test of the placed entries, way by way. -/
theorem Table.placed_any {t : Table} {test : Fin 4 × RuleEntry → Bool} :
    t.placed.any test = true
      ↔ ∃ (b : Fin 128) (w : Fin 4) (e : RuleEntry), t[b][w] = some e ∧ test (w, e) = true := by
  simp only [List.any_eq_true, Prod.exists, Table.mem_placed]
  exact ⟨fun ⟨w, e, ⟨b, hb⟩, h⟩ => ⟨b, w, e, hb, h⟩, fun ⟨b, w, e, hb, h⟩ => ⟨w, e, ⟨b, hb⟩, h⟩⟩

/-! ### Changes that keep a table well formed -/

theorem Table.blank_get (b : Fin 128) (w : Fin 4) : Table.blank[b][w] = none := by
  simp [Table.blank]

/-- Entries that keep their key and mark, and stay well formed, keep the table well formed. -/
theorem Table.ok.mapEntries {t : Table} {p : Nat} (h : t.ok p) {f : RuleEntry → Option RuleEntry}
    (hf : ∀ e e', f e = some e' → e'.key = e.key ∧ e'.prot = e.prot ∧ (e.ok → e'.ok)) :
    (t.mapEntries f).ok p := by
  intro b w e' he'
  rw [Table.mapEntries_get] at he'
  obtain ⟨e, he, hfe⟩ := Option.bind_eq_some_iff.1 he'
  obtain ⟨hok, hbucket, hside, halone⟩ := h b w e he
  obtain ⟨hkey, hprot, hstays⟩ := hf e e' hfe
  refine ⟨hstays hok, hkey ▸ hbucket, hprot ▸ hside, fun v hv x' hx' => ?_⟩
  rw [Table.mapEntries_get] at hx'
  obtain ⟨x, hx, hfx⟩ := Option.bind_eq_some_iff.1 hx'
  rw [(hf x x' hfx).1, hkey]
  exact halone v hv x hx

/-- An entry with another hit count within 16 bits is as well formed as before (Table 3-1). -/
theorem RuleEntry.ok.withHits {e : RuleEntry} (h : e.ok) {n : Nat} (hn : n ≤ 65535) :
    ({ e with hits := n } : RuleEntry).ok := by
  obtain ⟨hkey, hgroup, hmeter, hclass, hlimits, habsent, _⟩ := h
  exact ⟨hkey, hgroup, hmeter, hclass, hlimits, habsent, hn⟩

theorem RuleEntry.ok.hits_le {e : RuleEntry} (h : e.ok) : e.hits ≤ 65535 := by
  obtain ⟨_, _, _, _, _, _, hhits⟩ := h
  exact hhits

theorem Table.ok.withoutHits {t : Table} {p : Nat} (h : t.ok p) : t.withoutHits.ok p := by
  refine h.mapEntries ?_
  rintro e _ ⟨⟩
  exact ⟨rfl, rfl, fun he => he.withHits (by decide)⟩

theorem Table.withoutHits_hits {t : Table} {b : Fin 128} {w : Fin 4} {e : RuleEntry}
    (h : e ∈ t.withoutHits[b][w]) : e.hits = 0 := by
  rw [Table.withoutHits, Table.mapEntries_get] at h
  obtain ⟨_, _, ⟨⟩⟩ := Option.bind_eq_some_iff.1 h
  rfl

theorem Table.ok.withoutProtected {t : Table} {p : Nat} (h : t.ok p) : t.withoutProtected.ok p := by
  refine h.mapEntries fun e e' he => ?_
  split at he
  · cases he
  · cases he
    exact ⟨rfl, rfl, id⟩

/-- Freeing a way keeps the table well formed. -/
theorem Table.ok.freeWay {t : Table} {p : Nat} (h : t.ok p) (b : Fin 128) (w : Fin 4) :
    (t.setWay b w none).ok p := by
  have hold (c : Fin 128) (v : Fin 4) (e : RuleEntry) (he : (t.setWay b w none)[c][v] = some e) :
      t[c][v] = some e := by
    rw [Table.setWay_get] at he
    split at he
    · cases he
    · exact he
  intro c v e he
  obtain ⟨hok, hbucket, hside, halone⟩ := h c v e (hold c v e he)
  exact ⟨hok, hbucket, hside, fun u hu x hx => halone u hu x (hold c u x hx)⟩

/-- A well-formed entry put in its key's bucket, on its mark's side of P, where no other way holds its key,
keeps the table well formed (R36 to R38). -/
theorem Table.ok.putEntry {t : Table} {p : Nat} (h : t.ok p) {e : RuleEntry} {w : Fin 4} (he : e.ok)
    (hside : if e.prot then w.val < p else p ≤ w.val)
    (halone : ∀ v ≠ w, ∀ x, t[e.key.bucket][v] = some x → x.key ≠ e.key) :
    (t.setWay e.key.bucket w (some e)).ok p := by
  intro c v x hx
  simp only [Table.setWay_get, Option.mem_def] at hx ⊢
  split at hx
  case isTrue hhere =>
    obtain ⟨rfl, rfl⟩ := hhere
    cases hx
    refine ⟨he, rfl, hside, fun u hu y hy => halone u hu y ?_⟩
    simpa [hu] using hy
  case isFalse helsewhere =>
    obtain ⟨hok, hbucket, hside', halone'⟩ := h c v x hx
    refine ⟨hok, hbucket, hside', fun u hu y hy => ?_⟩
    split at hy
    case isTrue hthere =>
      obtain ⟨rfl, rfl⟩ := hthere
      cases hy
      exact (halone v hu.symm x hx).symm
    case isFalse => exact halone' u hu y hy

/-- Another well-formed entry of the same key and mark, put where a lookup finds the key, keeps the table well
formed. -/
theorem Table.ok.replaceEntry {t : Table} {p : Nat} (h : t.ok p) {e old : RuleEntry} {w : Fin 4}
    (hfound : t.lookup e.key = some (w, old)) (he : e.ok) (hprot : e.prot = old.prot) :
    (t.setWay e.key.bucket w (some e)).ok p := by
  obtain ⟨hplace, hkey⟩ := Table.lookup_some hfound
  obtain ⟨_, _, hside, halone⟩ := h _ _ _ hplace
  exact h.putEntry he (hprot ▸ hside) fun v hv x hx => hkey ▸ halone v hv x hx

/-- A key that a lookup finds in a well-formed table has a well-formed entry. -/
theorem Table.ok.of_lookup {t : Table} {p : Nat} (h : t.ok p) {k : Key} {w : Fin 4} {e : RuleEntry}
    (hfound : t.lookup k = some (w, e)) : e.ok :=
  (h _ _ _ (Table.lookup_some hfound).1).1

/-- A hit raise keeps the table well formed: a hit count stays at 65535 (R40, R47). -/
theorem Table.ok.raiseHit {t : Table} {p : Nat} (h : t.ok p) (k : Key) : (t.raiseHit k).ok p := by
  unfold Table.raiseHit
  split
  case h_1 w e hfound =>
    obtain ⟨_, rfl⟩ := Table.lookup_some hfound
    have hraised : ({ e with hits := raise16 e.hits } : RuleEntry).ok :=
      (h.of_lookup hfound).withHits (raise16_eq _ ▸ Nat.min_le_left _ _)
    exact h.replaceEntry (e := { e with hits := raise16 e.hits }) hfound hraised rfl
  case h_2 => exact h

end Sys2Proof.Machine

/-! ## The configuration and the working copy (R41 to R46, R153, R157) -/

namespace Sys2Proof.Machine

/-! ### Configuration items -/

/-- An item set to a member of its range reads back as it was set. -/
theorem Settings.get_put_same (c : Settings) {i : ConfigItem} {v : Nat} (h : i.inRange v = true) :
    (c.put i v).get i = v := by
  cases i with
  | rate l => exact PerLine.get_set_same _ _ _
  | share p => exact PerPort.get_set_same _ _ _
  | timeoutClass n => simp [Settings.put, Settings.get]
  | meterSize n => simp [Settings.put, Settings.get]
  | meterPeriod n => simp [Settings.put, Settings.get]
  | noticeMask p =>
    have hv : v < 2 ^ 10 := by simpa [ConfigItem.inRange, Nat.lt_succ_iff] using h
    simpa [Settings.put, Settings.get] using hv
  | startMode =>
    have hv : v = 0 ∨ v = 1 := by
      simp only [ConfigItem.inRange, decide_eq_true_eq] at h
      omega
    rcases hv with rfl | rfl <;> rfl
  | _ => rfl

/-- Setting an item sets that item alone: of the same kind, the element it names; of another kind, none. -/
theorem Settings.get_put_other (c : Settings) {i j : ConfigItem} (v : Nat) (h : j ≠ i) :
    (c.put i v).get j = c.get j := by
  cases i
  case rate l =>
    cases j
    case rate m => exact PerLine.get_set_of_ne _ (by rintro rfl; exact h rfl) _
    all_goals rfl
  case share p =>
    cases j
    case share q => exact (PerPort.get_set _ _ _ _).trans (if_neg (by rintro rfl; exact h rfl))
    all_goals rfl
  case noticeMask p =>
    cases j
    case noticeMask q =>
      exact congrArg BitVec.toNat
        ((PerPort.get_set _ _ _ _).trans (if_neg (by rintro rfl; exact h rfl)))
    all_goals rfl
  case timeoutClass n =>
    cases j
    case timeoutClass m => exact Vector.getElem_set_ne n.isLt m.isLt fun hnm => h (by rw [Fin.ext hnm])
    all_goals rfl
  case meterSize n =>
    cases j
    case meterSize m => exact Vector.getElem_set_ne n.isLt m.isLt fun hnm => h (by rw [Fin.ext hnm])
    all_goals rfl
  case meterPeriod n =>
    cases j
    case meterPeriod m => exact Vector.getElem_set_ne n.isLt m.isLt fun hnm => h (by rw [Fin.ext hnm])
    all_goals rfl
  all_goals
    cases j <;> first | rfl | exact absurd rfl h

theorem Settings.ok.put {c : Settings} (h : c.ok) {i : ConfigItem} {v : Nat} (hv : i.inRange v = true) :
    (c.put i v).ok := by
  intro j
  by_cases hj : j = i
  · subst hj
    rwa [c.get_put_same hv]
  · rw [c.get_put_other v hj]
    exact h j

/-- An item of another kind leaves P as it is. -/
theorem Settings.put_protectedWays (c : Settings) {i : ConfigItem} (v : Nat) (h : i ≠ .protectedWays) :
    (c.put i v).protectedWays = c.protectedWays := c.get_put_other v h.symm

theorem Settings.default_ok : Settings.default.ok := by
  intro i
  cases i with
  | rate l => rcases l with (_ | _) | _ <;> rfl
  | share p => cases p <;> rfl
  | noticeMask p => cases p <;> rfl
  | timeoutClass n => revert n; decide
  | meterSize n => simp [Settings.get, Settings.default, ConfigItem.inRange]
  | meterPeriod n => simp [Settings.get, Settings.default, ConfigItem.inRange]
  | _ => rfl

/-! ### The working copy -/

/-- The working copy of an APPLY fits: its configuration is in range, and its table fits its P. -/
def Working.ok (w : Working) : Prop := w.settings.ok ∧ w.table.ok w.settings.protectedWays

/-- A CONFIG item of another kind than PROTECTED_WAYS passes. -/
theorem Working.tryItem_config (w : Working) (role : Role) (lock : Bool) {i : ConfigItem} (v : Nat)
    (h : i ≠ .protectedWays) :
    w.tryItem role lock (.config i v) = .ok { w with settings := w.settings.put i v } := by
  cases i
  case protectedWays => exact absurd rfl h
  all_goals rfl

/-- What stops a change of P to `n`: a protected entry, or an entry below way `n` (R46). -/
def Working.Blocks (w : Working) (n : Nat) (b : Fin 128) (v : Fin 4) (e : RuleEntry) : Prop :=
  w.table[b][v] = some e ∧ (e.prot = true ∨ v.val < n)

/-- A CONFIG item of PROTECTED_WAYS: refused under the lock, stopped by an entry, or taken (R46). -/
theorem Working.tryWays_eq (w : Working) (lock : Bool) (n : Nat) [Decidable (∃ b v e, w.Blocks n b v e)] :
    w.tryWays lock n
      = if lock = true then .error .prot
        else if ∃ b v e, w.Blocks n b v e then .error .waysConflict
        else .ok { w with settings := { w.settings with protectedWays := n } } := by
  have hblocks : (∃ b v e, w.Blocks n b v e)
      ↔ w.table.placed.any (fun x => x.2.prot) = true ∨ w.table.placed.any (fun x => x.1.val < n) = true := by
    simp only [Table.placed_any, decide_eq_true_eq, Working.Blocks, ← exists_or, ← and_or_left]
  unfold Working.tryWays
  by_cases hp : w.table.placed.any (fun x => x.2.prot) = true
  · simp [hblocks, hp]
  · by_cases hn : w.table.placed.any (fun x => x.1.val < n) = true
    · simp only [hblocks, hp, hn, if_true, or_true]
      rfl
    · simp only [hblocks, hp, hn, or_self]
      rfl

/-- An ADD puts its entry at an open way, with no other entry of its key in the bucket. -/
theorem Working.tryAdd_ok {w w' : Working} {role : Role} {lock : Bool} {e : RuleEntry}
    (h : w.tryAdd role lock e = .ok w') :
    ∃ v, w.table.lookup e.key = none ∧ Bucket.CanHold w.table[e.key.bucket] w.settings.protectedWays e.prot v
      ∧ w' = { w with table := w.table.setWay e.key.bucket v (some { e with hits := 0 }) } := by
  unfold Working.tryAdd at h
  split at h
  · cases h
  · split at h
    · cases h
    · rename_i hlookup
      split at h
      · cases h
      · rename_i v hfree
        cases h
        exact ⟨v, by simpa using hlookup, (Bucket.freeWay_eq_some.1 hfree).1, rfl⟩

/-- A MODIFY replaces the entry of its key by one of the same mark. -/
theorem Working.tryModify_ok {w w' : Working} {role : Role} {lock : Bool} {e : RuleEntry}
    (h : w.tryModify role lock e = .ok w') :
    ∃ v old, w.table.lookup e.key = some (v, old) ∧ e.prot = old.prot
      ∧ w' = { w with table := w.table.setWay e.key.bucket v (some { e with hits := old.hits }) } := by
  unfold Working.tryModify at h
  split at h
  · cases h
  · rename_i v old hfound
    split at h
    · cases h
    · split at h
      · cases h
      · rename_i hprot
        cases h
        exact ⟨v, old, hfound, not_not.1 hprot, rfl⟩

/-- A DELETE frees the way of its key. -/
theorem Working.tryDelete_ok {w w' : Working} {role : Role} {lock : Bool} {k : Key}
    (h : w.tryDelete role lock k = .ok w') :
    ∃ v, w' = { w with table := w.table.setWay k.bucket v none } := by
  unfold Working.tryDelete at h
  split at h
  · cases h
  · rename_i v old hfound
    split at h
    · cases h
    · cases h
      exact ⟨v, rfl⟩

/-- A change of P passes only where every entry is unprotected and at a way that stays open to it. -/
theorem Working.tryWays_ok {w w' : Working} {lock : Bool} {n : Nat} (h : w.tryWays lock n = .ok w') :
    (∀ b v e, ¬w.Blocks n b v e) ∧ w' = { w with settings := w.settings.put .protectedWays n } := by
  classical
  rw [Working.tryWays_eq] at h
  split at h
  · cases h
  · split at h
    · cases h
    · rename_i hnone
      cases h
      exact ⟨fun b v e hb => hnone ⟨b, v, e, hb⟩, rfl⟩

/-- An item within its ranges that passes leaves a working copy that fits. -/
theorem Working.ok.tryItem {w w' : Working} {role : Role} {lock : Bool} {item : ListItem} (hw : w.ok)
    (hitem : item.ok) (h : w.tryItem role lock item = .ok w') : w'.ok := by
  obtain ⟨hsettings, htable⟩ := hw
  cases item with
  | add e =>
    obtain ⟨v, hno, ⟨hside, _⟩, rfl⟩ := Working.tryAdd_ok h
    have hnew : ({ e with hits := 0 } : RuleEntry).ok := hitem.1.withHits (by decide)
    exact ⟨hsettings, htable.putEntry (e := { e with hits := 0 }) hnew hside
      fun u _ x hx => Table.lookup_none.1 hno u x hx⟩
  | modify e =>
    obtain ⟨v, old, hfound, hprot, rfl⟩ := Working.tryModify_ok h
    have hnew : ({ e with hits := old.hits } : RuleEntry).ok :=
      hitem.1.withHits (htable.of_lookup hfound).hits_le
    exact ⟨hsettings, htable.replaceEntry (e := { e with hits := old.hits }) hfound hnew hprot⟩
  | delete k =>
    obtain ⟨v, rfl⟩ := Working.tryDelete_ok h
    exact ⟨hsettings, htable.freeWay _ _⟩
  | config i n =>
    by_cases hi : i = .protectedWays
    · subst hi
      obtain ⟨hnone, rfl⟩ := Working.tryWays_ok h
      refine ⟨hsettings.put hitem, fun b v e he => ?_⟩
      obtain ⟨hok, hbucket, _, halone⟩ := htable b v e he
      have hopen : e.prot = false ∧ n ≤ v.val := by
        simpa using fun hblocks => hnone b v e ⟨he, hblocks⟩
      exact ⟨hok, hbucket, by rw [hopen.1]; exact hopen.2, halone⟩
    · rw [Working.tryItem_config w role lock n hi] at h
      cases h
      refine ⟨hsettings.put hitem, ?_⟩
      rw [Settings.put_protectedWays _ _ hi]
      exact htable

/-- A list of items within their ranges that passes leaves a working copy that fits (R153). -/
theorem Working.ok.tryItems {role : Role} {lock : Bool} {items : List ListItem} (hitems : ∀ x ∈ items, x.ok) :
    ∀ {w w' : Working} {i : Nat}, w.ok → Working.tryItems role lock i w items = .ok w' → w'.ok := by
  induction items with
  | nil =>
    intro w w' i hw h
    cases h
    exact hw
  | cons item rest ih =>
    intro w w' i hw h
    unfold Working.tryItems at h
    split at h
    · cases h
    · rename_i u hu
      exact ih (fun x hx => hitems x (List.mem_cons_of_mem _ hx))
        (hw.tryItem (hitems item List.mem_cons_self) hu) h

/-! ### Staged items -/

theorem parseKey_ok {data : List Byte} {k : Key} (h : parseKey data = some k) : k.inRange = true := by
  unfold parseKey at h
  split at h
  · dsimp only at h
    split at h
    · cases h; assumption
    · cases h
  · cases h

theorem parseConfig_ok {data : List Byte} {item : ListItem} (h : parseConfig data = some item) :
    item.ok := by
  unfold parseConfig at h
  split at h
  · split at h
    · split at h
      · cases h; assumption
      · cases h
    · cases h
  · cases h

/-- The entry that stage data carry is within Table 3-1, with limits 0 when it has none and hit count 0. -/
theorem parseEntry_ok {data : List Byte} {e : RuleEntry} (h : parseEntry data = some e) :
    e.ok ∧ e.hits = 0 := by
  unfold parseEntry at h
  split at h
  case h_2 => cases h
  case h_1 =>
    split at h
    · cases h
    · simp only [Option.ite_none_right_eq_some, Bool.and_eq_true, decide_eq_true_eq, Option.some.injEq] at h
      obtain ⟨⟨⟨⟨⟨hkey, hgroup⟩, hmeter⟩, hclass⟩, hlimits⟩, rfl⟩ := h
      exact ⟨⟨hkey, hgroup, hmeter, hclass, hlimits,
        fun hno => ⟨if_neg (ne_true_of_eq_false hno), if_neg (ne_true_of_eq_false hno)⟩, Nat.zero_le _⟩, rfl⟩

/-! ### Images -/

theorem Image.blank_ok : Image.blank.ok := by
  have hfree (b : Fin 128) (w : Fin 4) (e : RuleEntry) : e ∉ Table.blank[b][w] := by
    rw [Table.blank_get]
    exact Option.not_mem_none e
  exact ⟨Settings.default_ok, fun b w e he => absurd he (hfree b w e),
    fun b w e he => absurd he (hfree b w e)⟩

/-- What an image holds of a table that fits its configuration (R164). -/
theorem Image.ok_of_withoutHits {c : Settings} {t : Table} (hc : c.ok) (ht : t.ok c.protectedWays)
    (lock : Bool) : Image.ok ⟨c, lock, t.withoutHits⟩ :=
  ⟨hc, ht.withoutHits, fun _ _ _ he => Table.withoutHits_hits he⟩

/-- The newest image is the image of one of the two slots. -/
theorem Store.newest_mem {st : Store} {i : Fin 2} {g : Nat} {image : Image}
    (h : st.newest = some (i, g, image)) : image ∈ st.slot0.image? ∨ image ∈ st.slot1.image? := by
  unfold Store.newest at h
  split at h
  case h_1 h0 h1 =>
    split at h <;> cases h
    · exact .inr (by rw [h1]; rfl)
    · exact .inl (by rw [h0]; rfl)
  case h_2 h0 _ => cases h; exact .inl (by rw [h0]; rfl)
  case h_3 h0 _ => cases h; exact .inl (by rw [h0]; rfl)
  case h_4 _ h1 => cases h; exact .inr (by rw [h1]; rfl)
  case h_5 _ h1 => cases h; exact .inr (by rw [h1]; rfl)
  all_goals cases h

/-- A load selects a slot's image or the blank one (R175). -/
theorem Store.select_image_ok {st : Store} (h0 : ∀ i ∈ st.slot0.image?, i.ok)
    (h1 : ∀ i ∈ st.slot1.image?, i.ok) : st.select.image.ok := by
  unfold Store.select
  dsimp only
  split
  case h_1 hnewest => exact (Store.newest_mem hnewest).elim (h0 _) (h1 _)
  case h_2 => exact Image.blank_ok

end Sys2Proof.Machine

/-! ## What each command can change of the rules, the store, the session and the modes

The invariant of the tables and the lists of who may change what are both about one part of the state. What a
command can leave of that part is said once for every command (`Changes`, `exec_changes`); both follow from its
cases. -/

namespace Sys2Proof.Machine

/-! ### The governed part of the state -/

/-- The part of the state that only some commands may change: the lock, the rule table, the configuration, the
mode, the lease groups, the store, the relay tag counter and the session. -/
@[ext] structure Governed where
  lock : Bool
  table : Table
  settings : Settings
  mode : Mode
  leases : Vector (Option Lease) 16
  store : Store
  tagCounter : Byte
  session : Option Session

/-- The governed part of a state. -/
def State.governed (s : State) : Governed where
  lock := s.lock
  table := s.table
  settings := s.settings
  mode := s.mode
  leases := s.leases
  store := s.store
  tagCounter := s.tagCounter
  session := s.session

/-! ### The operations that leave the governed part as it was -/

section Quiet
variable (s : State)

@[simp] theorem State.governed_withOutput (p : Port) (o : OutputUnit) :
    (s.withOutput p o).governed = s.governed := rfl

@[simp] theorem State.governed_withNotice (p : Port) (n : NoticeState) :
    (s.withNotice p n).governed = s.governed := rfl

@[simp] theorem State.governed_reach (k : Nat) : (s.reach k).governed = s.governed := rfl

@[simp] theorem State.governed_withAssembly (l : Line) (a : Assembly) :
    (s.withAssembly l a).governed = s.governed := rfl

@[simp] theorem State.governed_count (p : Port) (k : PortCounter) : (s.count p k).governed = s.governed := rfl

@[simp] theorem State.governed_countField (k : FieldCounter) : (s.countField k).governed = s.governed := rfl

@[simp] theorem State.governed_countFraming (l : Line) : (s.countFraming l).governed = s.governed := by
  cases l <;> rfl

@[simp] theorem State.governed_dropHeld (sel : HeldReq → Bool) : (s.dropHeld sel).governed = s.governed := rfl

@[simp] theorem State.governed_reserve (p : Port) : (s.reserve p).governed = s.governed := rfl

@[simp] theorem State.governed_answer (p : Port) (run : List Telegram) :
    (s.answer p run).governed = s.governed := rfl

@[simp] theorem State.governed_finish (m : Mgt) (st : MgtStatus) (data : List Byte) :
    (s.finish m st data).governed = s.governed := rfl

@[simp] theorem State.governed_withStation (n : Nat) (r : Station) :
    (s.withStation n r).governed = s.governed := by cases n <;> rfl

@[simp] theorem State.governed_withMeter (n : Nat) (m : Meter) :
    (s.withMeter n m).governed = s.governed := by cases n <;> rfl

@[simp] theorem State.governed_takeToken (n : Nat) : (s.takeToken n).governed = s.governed := by
  unfold State.takeToken
  split
  · exact s.governed_withMeter _ _
  · rfl

@[simp] theorem State.governed_offerNtc (p : Port) : (s.offerNtc p).governed = s.governed := by
  obtain ⟨_, _, h⟩ := s.offerNtc_frame p
  rw [h]
  rfl

@[simp] theorem State.governed_request (f : NoticeFlag) (d : Detail) (p : Port) :
    (s.request f d p).governed = s.governed := by
  obtain ⟨_, _, h⟩ := s.request_frame f d p
  rw [h]
  rfl

@[simp] theorem State.governed_requestBoth (f : NoticeFlag) (d : Detail) :
    (s.requestBoth f d).governed = s.governed := by simp [State.requestBoth]

@[simp] theorem State.governed_maskChange (p : Port) : (s.maskChange p).governed = s.governed := by
  unfold State.maskChange
  split <;> rfl

@[simp] theorem State.governed_maskChangeIf (list : List ListItem) (p : Port) :
    (s.maskChangeIf list p).governed = s.governed := by
  unfold State.maskChangeIf
  split
  · exact s.governed_maskChange p
  · rfl

@[simp] theorem State.governed_supervise (p : Port) : (s.supervise p).governed = s.governed := by
  obtain ⟨_, _, _, h⟩ := s.supervise_frame p
  rw [h]
  rfl

/-- Claims that leave the governed part as it was leave it so in every order. -/
theorem State.governed_inSomeOrder {claims : List (State → State)}
    (h : ∀ claim ∈ claims, ∀ u : State, (claim u).governed = u.governed) :
    (s.inSomeOrder claims).governed = s.governed :=
  State.inSomeOrder_keeps (P := fun u => u.governed = s.governed) (fun _ => rfl)
    fun claim hc u hu => (h claim hc u).trans hu

theorem governed_of_mem_runClaim {p : Port} {run : List Telegram} {claim : State → State}
    (h : claim ∈ runClaim p run) (u : State) : (claim u).governed = u.governed := by
  unfold runClaim at h
  split at h
  · cases h
  · obtain rfl := List.mem_singleton.1 h
    rfl

@[simp] theorem State.governed_runClaim (p : Port) (run : List Telegram) :
    (s.inSomeOrder (runClaim p run)).governed = s.governed :=
  s.governed_inSomeOrder fun _ => governed_of_mem_runClaim

/-- A run of answers beside one other claim that leaves the governed part as it was. -/
theorem State.governed_runClaim_and {claim : State → State}
    (h : ∀ u : State, (claim u).governed = u.governed) (p : Port) (run : List Telegram) :
    (s.inSomeOrder (runClaim p run ++ [claim])).governed = s.governed := by
  refine s.governed_inSomeOrder fun c hc => ?_
  rcases List.mem_append.1 hc with hrun | hone
  · exact governed_of_mem_runClaim hrun
  · obtain rfl := List.mem_singleton.1 hone
    exact h

@[simp] theorem State.governed_purge (sel : HeldReq → Bool) (st : RelayStatus) :
    (s.purge sel st).governed = s.governed := by simp [State.purge]

theorem State.governed_deadlineClaims (e : Entry) (held : List HeldReq) (quarantined : Bool) (p : Port) :
    (s.inSomeOrder (deadlineClaims e held quarantined p)).governed = s.governed := by
  refine s.governed_inSomeOrder fun claim hclaim u => ?_
  unfold deadlineClaims at hclaim
  rcases List.mem_append.1 hclaim with hrun | hrest
  · exact governed_of_mem_runClaim hrun u
  · split at hrest
    · rcases List.mem_append.1 hrest with hrun | hone
      · exact governed_of_mem_runClaim hrun u
      · obtain rfl := List.mem_singleton.1 hone
        exact u.governed_request _ _ p
    · cases hrest

/-- A screening's verdict changes counters, meters, held requests and an output unit (R61, R70, R71). -/
@[simp] theorem State.governed_conclude (p : Port) (t : Telegram) (v : Verdict) :
    (s.conclude p t v).governed = s.governed := by
  cases v with
  | absorbed => rfl
  | refused st => rfl
  | admitted r meter => exact s.governed_takeToken meter

@[simp] theorem State.governed_signOfLife (t : Telegram) : (s.signOfLife t).governed = s.governed := by
  unfold State.signOfLife
  split <;> simp

@[simp] theorem State.governed_takeRsp (rsp : Telegram) : (s.takeRsp rsp).governed = s.governed := by
  unfold State.takeRsp
  split
  · simp only [State.matched, State.governed_answer, State.governed_withStation]
    rfl
  · unfold State.unmatchedRsp
    dsimp only
    split <;> simp

@[simp] theorem State.governed_offerTo (evt : Telegram) (route : Route) (p : Port) :
    (s.offerTo evt route p).governed = s.governed := by
  unfold State.offerTo State.offerEvt
  split
  · dsimp only
    split <;> simp
  · rfl

@[simp] theorem State.governed_routeEvt (evt : Telegram) : (s.routeEvt evt).governed = s.governed := by
  have hcount : (s.countRoute evt).governed = s.governed := by
    unfold State.countRoute
    split
    · rfl
    · split <;> rfl
  simp [State.routeEvt, hcount]

/-- A field telegram changes counters, stations, transactions, output units and notices (R27). -/
@[simp] theorem State.governed_takeFieldTelegram (t : Telegram) :
    (s.takeFieldTelegram t).governed = s.governed := by
  unfold State.takeFieldTelegram
  dsimp only
  split
  · split <;> simp
  all_goals simp

@[simp] theorem State.governed_storeReport (op : StoreOp) (st : MgtStatus) (data : List Byte)
    (f : NoticeFlag) : (s.storeReport op st data f).governed = s.governed := by
  have hclaims := s.governed_inSomeOrder
    (claims := [State.answer op.port [mga op.source op.tag op.kind.opCode st data],
      State.request f .nothing op.port])
    (by simp)
  simp [State.storeReport, hclaims]

end Quiet

end Sys2Proof.Machine

namespace Sys2Proof.Machine

/-! ### What a command can change -/

/-- What a start, a fall of RESET_N and a fall of the supply keep of the store: its images (Table 10-5). -/
structure Store.Survives (before after : Store) : Prop where
  slot0 : after.slot0 = before.slot0
  slot1 : after.slot1 = before.slot1
  idle : after.op = none

/-- The commands that change the lease groups alone (Table 5-1). -/
def Instr.IsLeaseCommand (c : Instr) : Prop :=
  c = .leaseTake ∨ c = .leaseRenew ∨ c = .leaseRelease ∨ (∃ g, c = .leaseExpiry g)
    ∨ ∃ p, c = .leaseReleaseOnLinkDown p

/-- The commands that change the session alone (R142, R146 to R149, R151, R155). -/
def Instr.IsSessionCommand (c : Instr) : Prop :=
  c = .sessionIdleExpiry ∨ (∃ p, c = .sessionEndOnLinkDown p) ∨ (∃ p last, c = .controlTelegram p last)
    ∨ c ∈ [.sessionOpen, .sessionClose, .stageConfig, .stageAdd, .stageModify, .stageDelete, .discard]

/-- Every item of the change list was staged before or is within its ranges. -/
def StagedFrom (before after : Option Session) : Prop :=
  ∀ x ∈ after, ∀ item ∈ x.list, item.ok ∨ ∃ y ∈ before, item ∈ y.list

/-- What command `c` can leave of the governed part of `s`. -/
inductive Changes (s t : State) : Instr → Prop
  | nothing {c : Instr} (h : t.governed = s.governed) : Changes s t c
  | lost {c : Instr} (store : Store) (hc : c = .powerFail ∨ c = .resetNFall) (hs : s.store.Survives store)
      (h : t.governed = { State.reset.governed with store := store }) : Changes s t c
  | loaded (store : Store) (hs : s.store.Survives store)
      (h : t.governed = { State.reset.governed with
        store := store
        table := s.store.select.image.table.withoutHits
        lock := s.store.select.image.lock
        settings := s.store.select.image.settings
        mode := s.store.select.image.settings.startMode }) : Changes s t .startUpLoadEnd
  | reloaded (h : t.governed = { s.governed with
        table := s.store.select.image.table.withoutHits
        lock := s.store.select.image.lock
        settings := s.store.select.image.settings
        session := none }) : Changes s t .restart
  | hit (station : Byte) (block : Nat)
      (h : t.governed = { s.governed with table := s.table.raiseHit ⟨station, block⟩ }) :
      Changes s t (.hitCountRaise station block)
  | applied (x : Session) (w : Working) (hx : s.session = some x)
      (hw : Working.tryItems x.role s.lock 0 ⟨s.table, s.settings⟩ x.list = .ok w)
      (h : t.governed = { s.governed with
        table := w.table, settings := w.settings, session := some { x with list := [] } }) :
      Changes s t .apply
  | leases {c : Instr} (leases : Vector (Option Lease) 16) (hc : Instr.IsLeaseCommand c)
      (h : t.governed = { s.governed with leases := leases }) : Changes s t c
  | session {c : Instr} (x : Option Session) (hc : Instr.IsSessionCommand c) (hx : StagedFrom s.session x)
      (h : t.governed = { s.governed with session := x }) : Changes s t c
  | dispatched (tag : Byte) (h : t.governed = { s.governed with tagCounter := tag }) : Changes s t .dispatch
  | mode (mode : Mode) (h : t.governed = { s.governed with mode := mode }) : Changes s t .setMode
  | restarted (mode : Mode) (leases : Vector (Option Lease) 16)
      (h : t.governed = { s.governed with mode := mode, leases := leases }) :
      Changes s t .restartHoldAndLeasePart
  | storeStarted {c : Instr} (kind : StoreKind) (op : StoreOp) (i : Fin 2)
      (hc : c = .commit ∨ c = .setLock ∨ c = .eraseProtected) (hop : op.image = s.imageSource kind)
      (h : t.governed = { s.governed with store := { s.store.withSlot i .writing with op := some op } }) :
      Changes s t c
  | storeFailed {c : Instr} (i : Fin 2) (failures : Nat) (faulted : Bool)
      (hc : c = .storeWriteEnd .mismatch ∨ c = .storeLimitExpiry)
      (h : t.governed = { s.governed with store := { s.store.withSlot i .erased with
        op := none, failures := failures, faulted := faulted } }) : Changes s t c
  | storeSucceeded (op : StoreOp) (hop : s.store.op = some op)
      (h : t.governed = (State.storeEffect { s with store := {
        s.store.withSlot op.target (.valid op.generation op.image) with
        op := none, failures := 0 } } op.kind).governed) : Changes s t (.storeWriteEnd .equal)

section Frames
variable {s t : State} {c : Instr}

theorem Changes.of_whenRunning {f : State → State} (h : s.whenRunning f = .next t)
    (hf : Changes s (f s) c) : Changes s t c := by
  rcases State.whenRunning_cases h with rfl | rfl
  · exact hf
  · exact .nothing rfl

theorem Changes.of_whenMgt {takes : Byte → Bool} {f : Mgt → State → State} (h : s.whenMgt takes f = .next t)
    (hf : ∀ m, Changes s (f m s) c) : Changes s t c := by
  rcases State.whenMgt_cases h with ⟨m, _, _, _, _, _, rfl⟩ | rfl
  · exact hf m
  · exact .nothing rfl

theorem Changes.of_whenOp {code : Byte} {len : Nat} {f : Mgt → State → State}
    (h : s.whenOp code len f = .next t) (hf : ∀ m, Changes s (f m s) c) : Changes s t c := by
  rcases State.whenOp_cases h with ⟨m, _, _, _, _, _, ⟨_, rfl⟩ | rfl⟩ | rfl
  · exact hf m
  · exact .nothing rfl
  · exact .nothing rfl

theorem Changes.of_whenOwner (m : Mgt) {f : Session → State}
    (hf : ∀ x, s.session = some x → Changes s (f x) c) : Changes s (s.whenOwner m f) c := by
  rcases s.whenOwner_cases m f with ⟨_, h⟩ | ⟨_, _, _, h⟩ | ⟨x, hx, _, h⟩
  · rw [h]; exact .nothing rfl
  · rw [h]; exact .nothing rfl
  · rw [h]; exact hf x hx

theorem Changes.of_whenRestarting {due : RestartRun → Bool} {f : RestartRun → State → State}
    (h : s.whenRestarting due f = .next t) (hf : ∀ r, Changes s (f r s) c) : Changes s t c := by
  rcases State.whenRestarting_cases h with ⟨r, _, _, _, rfl⟩ | rfl
  · exact hf r
  · exact .nothing rfl

end Frames

/-! ### Supply, RESET_N and the load -/

section Starts
variable {s t : State}

theorem powerOn_changes (h : execPowerOn s = .next t) : Changes s t .powerOn := by
  simp only [execPowerOn, Host.Outcome.next.injEq] at h
  subst h
  refine .nothing ?_
  split
  · rfl
  · split <;> rfl

theorem powerFail_changes (h : execPowerFail s = .next t) : Changes s t .powerFail := by
  simp only [execPowerFail, Host.Outcome.next.injEq] at h
  subst h
  split
  · exact .lost s.lost.clearKept.store (.inl rfl) ⟨rfl, rfl, rfl⟩ rfl
  · exact .nothing rfl

theorem resetNFall_changes (h : execResetNFall s = .next t) : Changes s t .resetNFall := by
  simp only [execResetNFall, Host.Outcome.next.injEq] at h
  subst h
  split
  · exact .nothing rfl
  · split
    · exact .lost s.lost.store (.inr rfl) ⟨rfl, rfl, rfl⟩ rfl
    · exact .nothing rfl

theorem pinReset_changes (h : execPinReset s = .next t) : Changes s t .pinReset := by
  simp only [execPinReset, Host.Outcome.next.injEq] at h
  subst h
  refine .nothing ?_
  split
  · rfl
  · split <;> rfl

theorem startUpLoadEnd_changes (h : execStartUpLoadEnd s = .next t) : Changes s t .startUpLoadEnd := by
  simp only [execStartUpLoadEnd, Host.Outcome.next.injEq] at h
  subst h
  split
  case h_1 cause _ =>
    have hstart : (s.startUp cause).governed = (s.loaded cause s.store.select.image).governed :=
      State.governed_requestBoth _ _ _
    exact .loaded (s.keptBy cause).store (by cases cause <;> exact ⟨rfl, rfl, rfl⟩)
      (hstart.trans (by cases cause <;> rfl))
  all_goals exact .nothing rfl

end Starts

/-! ### Links -/

section Links
variable {s t : State}

/-- An MGT that is delivered reaches the session by its idle timer alone (R142). -/
theorem State.governed_offerMgt (s : State) (m : Mgt) :
    (s.offerMgt m).governed = { s.governed with session := (s.touchSession m.port).session } := by
  rw [State.offerMgt, State.touchSession_eq]
  dsimp only
  split <;> rfl

theorem State.touchSession_staged (s : State) (p : Port) :
    StagedFrom s.session (s.touchSession p).session := by
  rw [State.touchSession_eq]
  intro x hx item hitem
  obtain ⟨y, hy, rfl⟩ := Option.map_eq_some_iff.1 hx
  refine .inr ⟨y, hy, ?_⟩
  split at hitem <;> exact hitem

/-- A delivery on a control port, in a state with the governed part of `s` (R26). -/
theorem Changes.of_deliver {u : State} (hu : u.governed = s.governed) (p : Port) (telegram : Telegram)
    (last : Byte) : Changes s (u.deliver p telegram) (.controlTelegram p last) := by
  unfold State.deliver
  split
  case h_1 => split <;> exact .nothing hu
  case h_2 =>
    split
    · have hsession : u.session = s.session := congrArg Governed.session hu
      refine .session _ (.inr (.inr (.inl ⟨p, last, rfl⟩)))
        (hsession ▸ (u.reserve p).touchSession_staged p) ?_
      rw [State.governed_offerMgt, State.governed_reserve, hu]
      rfl
    · exact .nothing hu
  all_goals exact .nothing hu

theorem controlTelegram_changes {p : Port} {last : Byte} (h : execControlTelegram p last s = .next t) :
    Changes s t (.controlTelegram p last) := by
  refine .of_whenRunning h ?_
  split
  · exact .of_deliver (by rw [State.governed_supervise]; rfl) _ _ _
  all_goals exact .nothing rfl

end Links

/-! ### The lease groups, the mode and the arbiter -/

section Units
variable {s t : State}

theorem State.governed_withLease (s : State) (g : Nat) (l : Option Lease) :
    ∃ leases, (s.withLease g l).governed = { s.governed with leases := leases } := by
  cases g <;> exact ⟨_, rfl⟩

/-- The answer to a grant of a lease changes the lease groups alone (R79 to R81). -/
theorem Changes.of_grant {c : Instr} (hc : Instr.IsLeaseCommand c) (p : Port) (g granted : Nat) (m : Mgt)
    (data : List Byte) : Changes s ((s.grant p g granted).finish m .done data) c := by
  obtain ⟨leases, h⟩ := s.governed_withLease g (some ⟨p, granted, s.inMs granted⟩)
  exact .leases leases hc h

/-- A loss frees a group, and drops held requests (R88). -/
theorem State.governed_loseGroup (s : State) (p : Port) (g : Nat) :
    ∃ leases, (s.loseGroup p g).governed = { s.governed with leases := leases } :=
  s.governed_withLease g none

theorem leaseTake_changes (h : execLeaseTake s = .next t) : Changes s t .leaseTake := by
  refine .of_whenOp h fun m => ?_
  split
  · dsimp only
    split
    · exact .nothing rfl
    · split
      · split
        · exact .of_grant (.inl rfl) _ _ _ _ _
        · exact .nothing rfl
      · exact .of_grant (.inl rfl) _ _ _ _ _
  · exact .nothing rfl

theorem leaseRenew_changes (h : execLeaseRenew s = .next t) : Changes s t .leaseRenew := by
  refine .of_whenOp h fun m => ?_
  split
  · split
    · exact .nothing rfl
    · split
      · split
        · exact .of_grant (.inr (.inl rfl)) _ _ _ _ _
        · exact .nothing rfl
      · exact .nothing rfl
  · exact .nothing rfl

theorem leaseRelease_changes (h : execLeaseRelease s = .next t) : Changes s t .leaseRelease := by
  refine .of_whenOp h fun m => ?_
  split
  case h_1 g _ =>
    split
    · exact .nothing rfl
    · split
      · split
        · obtain ⟨leases, hl⟩ := s.freeSlot.governed_loseGroup m.port g.toNat
          refine .leases leases (.inr (.inr (.inl rfl))) ?_
          rw [State.governed_runClaim_and _ fun u => u.governed_answer _ _]
          exact hl
        · exact .nothing rfl
      · exact .nothing rfl
  case h_2 => exact .nothing rfl

theorem leaseExpiry_changes {g : Nat} (h : execLeaseExpiry g s = .next t) :
    Changes s t (.leaseExpiry g) := by
  refine .of_whenRunning h ?_
  split
  · exact .nothing rfl
  · rename_i l _
    obtain ⟨leases, hl⟩ := (s.reach l.expiry).governed_loseGroup l.holder g
    refine .leases leases (.inr (.inr (.inr (.inl ⟨g, rfl⟩)))) ?_
    rw [State.governed_runClaim_and _ fun u => u.governed_request _ _ _]
    exact hl

theorem leaseReleaseOnLinkDown_changes {p : Port} (h : execLeaseReleaseOnLinkDown p s = .next t) :
    Changes s t (.leaseReleaseOnLinkDown p) := by
  refine .of_whenRunning h ?_
  split
  · exact .nothing rfl
  · dsimp only
    split
    · exact .nothing rfl
    · refine .leases (s.leases.map (Option.filter (fun x : Lease => x.holder ≠ p) ·))
        (.inr (.inr (.inr (.inr ⟨p, rfl⟩)))) ?_
      rw [State.governed_runClaim_and _ fun u => u.governed_request _ _ _]
      rfl

theorem dispatch_changes (h : execDispatch s = .next t) : Changes s t .dispatch := by
  have hreq (r : HeldReq) : (s.dispatchReq r).governed
      = { s.governed with tagCounter := allocTag s.entries 16 s.tagCounter + 1 } := by
    have hstation := s.governed_withStation r.station.toNat { s.station r.station.toNat with state := .busy }
    exact congrArg (fun g : Governed => { g with tagCounter := allocTag s.entries 16 s.tagCounter + 1 })
      hstation
  refine .of_whenRunning h ?_
  split
  · exact .nothing rfl
  · split <;> exact .dispatched _ (hreq _)

theorem setMode_changes (h : execSetMode s = .next t) : Changes s t .setMode := by
  refine .of_whenOp h fun m => .of_whenOwner m fun x _ => ?_
  split
  · split
    · exact .mode _ rfl
    · exact .nothing rfl
  · exact .nothing rfl

theorem restartHoldAndLeasePart_changes (h : execRestartHoldAndLeasePart s = .next t) :
    Changes s t .restartHoldAndLeasePart :=
  .of_whenRestarting h fun _ => .restarted _ _ (State.governed_purge _ _ _)

theorem hitCountRaise_changes {station : Byte} {block : Nat}
    (h : execHitCountRaise station block s = .next t) : Changes s t (.hitCountRaise station block) := by
  refine .of_whenRunning h ?_
  dsimp only
  split
  · exact .hit station block rfl
  · exact .nothing rfl

end Units

/-! ### The session and its change list -/

section Sessions
variable {s t : State}

theorem stagedFrom_none (before : Option Session) : StagedFrom before none := nofun

/-- A session with an empty list has nothing staged. -/
theorem stagedFrom_empty (before : Option Session) {x : Session} (h : x.list = []) :
    StagedFrom before (some x) := by
  rintro _ ⟨⟩ item hitem
  rw [h] at hitem
  cases hitem

theorem sessionOpen_changes (h : execSessionOpen s = .next t) : Changes s t .sessionOpen := by
  have hc : Instr.IsSessionCommand .sessionOpen := by simp [Instr.IsSessionCommand]
  refine .of_whenOp h fun m => ?_
  split
  · split
    · exact .nothing rfl
    · split
      · split
        · exact .nothing rfl
        · split
          · exact .nothing rfl
          · exact .session _ hc (stagedFrom_empty _ rfl) rfl
      · split
        · exact .nothing rfl
        · exact .session _ hc (stagedFrom_empty _ rfl) rfl
  · exact .nothing rfl

theorem sessionClose_changes (h : execSessionClose s = .next t) : Changes s t .sessionClose :=
  .of_whenOp h fun m => .of_whenOwner m fun _ _ =>
    .session none (by simp [Instr.IsSessionCommand]) (stagedFrom_none _) rfl

theorem sessionIdleExpiry_changes (h : execSessionIdleExpiry s = .next t) :
    Changes s t .sessionIdleExpiry := by
  refine .of_whenRunning h ?_
  split
  · exact .nothing rfl
  · exact .session none (.inl rfl) (stagedFrom_none _) (State.governed_request _ _ _ _)

theorem sessionEndOnLinkDown_changes {p : Port} (h : execSessionEndOnLinkDown p s = .next t) :
    Changes s t (.sessionEndOnLinkDown p) := by
  refine .of_whenRunning h ?_
  split
  · exact .nothing rfl
  · dsimp only
    split
    · split
      · exact .session none (.inr (.inl ⟨p, rfl⟩)) (stagedFrom_none _) (State.governed_request _ _ _ _)
      · exact .nothing rfl
    · exact .nothing rfl

/-- A stage operation of an item within its ranges adds it to the list, or answers (R151, R152). -/
theorem Changes.of_stageParsed {c : Instr} (hc : Instr.IsSessionCommand c) (m : Mgt) {item : Option ListItem}
    (hitem : ∀ i, item = some i → i.ok) : Changes s (s.stageParsed m item) c := by
  refine .of_whenOwner m fun x hx => ?_
  split
  · exact .nothing rfl
  · rename_i staged
    unfold State.stage
    split
    · exact .nothing rfl
    · split
      · exact .nothing rfl
      · refine .session _ hc ?_ rfl
        rintro _ ⟨⟩ i hi
        rcases List.mem_append.1 hi with hold | hnew
        · exact .inr ⟨x, hx, hold⟩
        · obtain rfl := List.mem_singleton.1 hnew
          exact .inl (hitem _ rfl)

theorem stageConfig_changes (h : execStageConfig s = .next t) : Changes s t .stageConfig :=
  .of_whenOp h fun m => .of_stageParsed (by simp [Instr.IsSessionCommand]) m fun _ => parseConfig_ok

theorem stageAdd_changes (h : execStageAdd s = .next t) : Changes s t .stageAdd := by
  refine .of_whenOp h fun m => .of_stageParsed (by simp [Instr.IsSessionCommand]) m fun i hi => ?_
  obtain ⟨e, he, rfl⟩ := Option.map_eq_some_iff.1 hi
  exact parseEntry_ok he

theorem stageModify_changes (h : execStageModify s = .next t) : Changes s t .stageModify := by
  refine .of_whenOp h fun m => .of_stageParsed (by simp [Instr.IsSessionCommand]) m fun i hi => ?_
  obtain ⟨e, he, rfl⟩ := Option.map_eq_some_iff.1 hi
  exact parseEntry_ok he

theorem stageDelete_changes (h : execStageDelete s = .next t) : Changes s t .stageDelete := by
  refine .of_whenOp h fun m => .of_stageParsed (by simp [Instr.IsSessionCommand]) m fun i hi => ?_
  obtain ⟨k, hk, rfl⟩ := Option.map_eq_some_iff.1 hi
  exact parseKey_ok hk

theorem discard_changes (h : execDiscard s = .next t) : Changes s t .discard :=
  .of_whenOp h fun m => .of_whenOwner m fun x _ =>
    .session _ (by simp [Instr.IsSessionCommand]) (stagedFrom_empty _ rfl) rfl

theorem apply_changes (h : execApply s = .next t) : Changes s t .apply := by
  refine .of_whenOp h fun m => .of_whenOwner m fun x hx => ?_
  split
  · exact .nothing rfl
  · split
    · exact .nothing rfl
    · split
      · exact .nothing rfl
      · rename_i w hw
        refine .applied x w hx hw ?_
        simp only [State.takeEffect, State.governed_finish, State.governed_maskChangeIf]
        rfl

end Sessions

/-! ### The store and RESTART -/

section Stores
variable {s t : State}

theorem Changes.of_storeOperation {c : Instr} (hc : c = .commit ∨ c = .setLock ∨ c = .eraseProtected)
    {kind : StoreKind} (h : s.storeOperation kind = .next t) : Changes s t c := by
  refine .of_whenOp h fun m => .of_whenOwner m fun x _ => ?_
  split
  · exact .nothing rfl
  · exact .storeStarted kind _ s.store.target hc rfl rfl

/-- The failure of the operation in flight erases its target (R170). -/
theorem Changes.of_storeFailure {c : Instr} (hc : c = .storeWriteEnd .mismatch ∨ c = .storeLimitExpiry)
    (u : State) (hu : u.governed = s.governed) (op : StoreOp) (cause : Byte) :
    Changes s (u.storeFailure op cause) c := by
  have hstore : u.store = s.store := congrArg Governed.store hu
  refine .storeFailed op.target (s.store.failures + 1) (s.store.faulted || 3 ≤ s.store.failures + 1) hc ?_
  rw [State.storeFailure, State.governed_storeReport, ← hu, ← hstore]
  rfl

theorem storeWriteEnd_changes {result : ReadBack} (h : execStoreWriteEnd result s = .next t) :
    Changes s t (.storeWriteEnd result) := by
  refine .of_whenRunning h ?_
  split
  · exact .nothing rfl
  · rename_i op hop
    cases result with
    | equal => exact .storeSucceeded op hop (State.governed_storeReport _ _ _ _ _)
    | mismatch => exact .of_storeFailure (.inl rfl) s rfl op 2

theorem storeLimitExpiry_changes (h : execStoreLimitExpiry s = .next t) :
    Changes s t .storeLimitExpiry := by
  refine .of_whenRunning h ?_
  split
  · exact .nothing rfl
  · exact .of_storeFailure (.inr rfl) _ (State.governed_reach _ _) _ 1

theorem restart_changes (h : execRestart s = .next t) : Changes s t .restart := by
  refine .of_whenOp h fun m => .of_whenOwner m fun x _ => ?_
  split
  · exact .nothing rfl
  · exact .reloaded rfl

end Stores

end Sys2Proof.Machine

namespace Sys2Proof.Machine

/-! ### Commands that leave the governed part as it was -/

section QuietCommands
variable {s t : State}

/-! #### Links and the field transmitter -/

theorem framingError_changes {l : Line} {x : Character} (h : execFramingError l x s = .next t) :
    Changes s t (.framingError l x) := by
  refine .of_whenRunning h (.nothing ?_)
  split <;> simp

theorem characterReceived_changes {l : Line} {x : Character} (h : execCharacterReceived l x s = .next t) :
    Changes s t (.characterReceived l x) := by
  refine .of_whenRunning h (.nothing ?_)
  split <;> rfl

theorem frameGapPause_changes {l : Line} (h : execFrameGapPause l s = .next t) :
    Changes s t (.frameGapPause l) := by
  refine .of_whenRunning h (.nothing ?_)
  dsimp only
  split
  · rfl
  all_goals exact State.governed_countFraming _ l

theorem silenceTimerExpiry_changes {x : SilenceStep} (h : execSilenceTimerExpiry x s = .next t) :
    Changes s t (.silenceTimerExpiry x) := by
  refine .of_whenRunning h (.nothing ?_)
  cases x with
  | expiry p => simp only [State.fallSilent]; split <;> rfl
  | notice p =>
    simp only [State.notePeerDown]
    split
    · rfl
    · exact State.governed_request _ _ _ _

theorem fieldTelegram_changes {last : Byte} (h : execFieldTelegram last s = .next t) :
    Changes s t (.fieldTelegram last) := by
  refine .of_whenRunning h (.nothing ?_)
  split
  · exact State.governed_takeFieldTelegram _ _
  all_goals rfl

theorem fieldTransmissionEnd_changes (h : execFieldTransmissionEnd s = .next t) :
    Changes s t .fieldTransmissionEnd := by
  refine .of_whenRunning h (.nothing ?_)
  split <;> rfl

/-! #### Screening, meters, stations and output units -/

theorem screening_changes {x : ScreeningStep} (h : execScreening x s = .next t) :
    Changes s t (.screening x) := by
  refine .of_whenRunning h (.nothing ?_)
  cases x with
  | judge p =>
    simp only [State.judgeFirst]
    split
    · rfl
    · exact State.governed_conclude _ p _ _
  | place p => rfl
  | release p => rfl

theorem meterRefill_changes {n : Nat} (h : execMeterRefill n s = .next t) : Changes s t (.meterRefill n) := by
  refine .of_whenRunning h (.nothing ?_)
  split
  · rfl
  · split
    · rfl
    · exact State.governed_withMeter _ _ _

theorem deadline_changes {tag : Byte} (h : execDeadline tag s = .next t) : Changes s t (.deadline tag) := by
  refine .of_whenRunning h (.nothing ?_)
  split
  · rfl
  · rw [State.governed_deadlineClaims, State.governed_deadlineClaims]
    exact State.governed_withStation _ _ _

theorem holdTimerExpiry_changes {n : Nat} (h : execHoldTimerExpiry n s = .next t) :
    Changes s t (.holdTimerExpiry n) := by
  refine .of_whenRunning h (.nothing ?_)
  split
  · rfl
  · simp

theorem isolatedPurge_changes (h : execIsolatedPurge s = .next t) : Changes s t .isolatedPurge := by
  refine .of_whenRunning h (.nothing ?_)
  split
  · rfl
  · exact State.governed_purge _ _ _

theorem portSendEnd_changes {p : Port} (h : execPortSendEnd p s = .next t) :
    Changes s t (.portSendEnd p) := by
  refine .of_whenRunning h (.nothing ?_)
  split <;> rfl

theorem noticeRepeatExpiry_changes {p : Port} (h : execNoticeRepeatExpiry p s = .next t) :
    Changes s t (.noticeRepeatExpiry p) := by
  refine .of_whenRunning h (.nothing ?_)
  split
  · rfl
  · dsimp only
    split <;> simp

/-! #### Operations that read or answer, or reach counters and notices alone -/

theorem unknownOp_changes (h : execUnknownOp s = .next t) : Changes s t .unknownOp :=
  .of_whenMgt h fun _ => .nothing rfl

theorem echo_changes (h : execEcho s = .next t) : Changes s t .echo :=
  .of_whenMgt h fun _ => .nothing rfl

theorem readConfig_changes (h : execReadConfig s = .next t) : Changes s t .readConfig := by
  refine .of_whenOp h fun m => .nothing ?_
  split <;> [split <;> rfl; rfl]

theorem listRead_changes (h : execListRead s = .next t) : Changes s t .listRead := by
  refine .of_whenOp h fun m => .of_whenOwner m fun x _ => .nothing ?_
  split <;> [(split <;> [rfl; (split <;> rfl)]); rfl]

theorem readEntry_changes (h : execReadEntry s = .next t) : Changes s t .readEntry := by
  refine .of_whenOp h fun m => .nothing ?_
  split <;> [rfl; (split <;> rfl)]

theorem readBucket_changes (h : execReadBucket s = .next t) : Changes s t .readBucket := by
  refine .of_whenOp h fun m => .nothing ?_
  split <;> [(split <;> rfl); rfl]

theorem readStation_changes (h : execReadStation s = .next t) : Changes s t .readStation := by
  refine .of_whenOp h fun m => .nothing ?_
  split <;> [(split <;> rfl); rfl]

theorem readCounters_changes (h : execReadCounters s = .next t) : Changes s t .readCounters := by
  refine .of_whenOp h fun m => .nothing ?_
  split <;> [(split <;> rfl); rfl]

theorem clearCounters_changes (h : execClearCounters s = .next t) : Changes s t .clearCounters :=
  .of_whenOp h fun m => .of_whenOwner m fun _ _ => .nothing rfl

theorem leaseStatus_changes (h : execLeaseStatus s = .next t) : Changes s t .leaseStatus :=
  .of_whenOp h fun _ => .nothing rfl

theorem noticeAck_changes (h : execNoticeAck s = .next t) : Changes s t .noticeAck := by
  refine .of_whenOp h fun m => .nothing ?_
  split <;> rfl

theorem readStore_changes (h : execReadStore s = .next t) : Changes s t .readStore :=
  .of_whenOp h fun _ => .nothing rfl

/-! #### The other parts of a RESTART -/

theorem restartTransactionPart_changes (h : execRestartTransactionPart s = .next t) :
    Changes s t .restartTransactionPart := by
  exact .of_whenRestarting h fun _ => .nothing (by simp; rfl)

theorem restartNoticePart_changes {p : Port} (h : execRestartNoticePart p s = .next t) :
    Changes s t (.restartNoticePart p) := by
  refine .of_whenRestarting h fun _ => .nothing ?_
  rw [State.governed_maskChange, State.governed_request]
  rfl

theorem restartAnswer_changes (h : execRestartAnswer s = .next t) : Changes s t .restartAnswer := by
  refine .of_whenRestarting h fun _ => .nothing ?_
  split <;> rfl

end QuietCommands

/-! ### Every command -/

/-- What any command can leave of the governed part. -/
theorem exec_changes {c : Instr} {s t : State} (h : exec c s = .next t) : Changes s t c := by
  cases c with
  | powerOn => exact powerOn_changes h
  | powerFail => exact powerFail_changes h
  | resetNFall => exact resetNFall_changes h
  | pinReset => exact pinReset_changes h
  | startUpLoadEnd => exact startUpLoadEnd_changes h
  | framingError l x => exact framingError_changes h
  | frameGapPause l => exact frameGapPause_changes h
  | controlTelegram p last => exact controlTelegram_changes h
  | silenceTimerExpiry x => exact silenceTimerExpiry_changes h
  | leaseReleaseOnLinkDown p => exact leaseReleaseOnLinkDown_changes h
  | sessionEndOnLinkDown p => exact sessionEndOnLinkDown_changes h
  | fieldTelegram last => exact fieldTelegram_changes h
  | screening x => exact screening_changes h
  | hitCountRaise station block => exact hitCountRaise_changes h
  | dispatch => exact dispatch_changes h
  | fieldTransmissionEnd => exact fieldTransmissionEnd_changes h
  | deadline tag => exact deadline_changes h
  | holdTimerExpiry n => exact holdTimerExpiry_changes h
  | meterRefill n => exact meterRefill_changes h
  | leaseExpiry g => exact leaseExpiry_changes h
  | isolatedPurge => exact isolatedPurge_changes h
  | portSendEnd p => exact portSendEnd_changes h
  | noticeRepeatExpiry p => exact noticeRepeatExpiry_changes h
  | sessionIdleExpiry => exact sessionIdleExpiry_changes h
  | unknownOp => exact unknownOp_changes h
  | echo => exact echo_changes h
  | sessionOpen => exact sessionOpen_changes h
  | sessionClose => exact sessionClose_changes h
  | readConfig => exact readConfig_changes h
  | stageConfig => exact stageConfig_changes h
  | stageAdd => exact stageAdd_changes h
  | stageModify => exact stageModify_changes h
  | stageDelete => exact stageDelete_changes h
  | listRead => exact listRead_changes h
  | apply => exact apply_changes h
  | discard => exact discard_changes h
  | commit => exact .of_storeOperation (.inl rfl) h
  | setLock => exact .of_storeOperation (.inr (.inl rfl)) h
  | eraseProtected => exact .of_storeOperation (.inr (.inr rfl)) h
  | readEntry => exact readEntry_changes h
  | readBucket => exact readBucket_changes h
  | readStation => exact readStation_changes h
  | readCounters => exact readCounters_changes h
  | clearCounters => exact clearCounters_changes h
  | leaseTake => exact leaseTake_changes h
  | leaseRenew => exact leaseRenew_changes h
  | leaseRelease => exact leaseRelease_changes h
  | leaseStatus => exact leaseStatus_changes h
  | noticeAck => exact noticeAck_changes h
  | setMode => exact setMode_changes h
  | readStore => exact readStore_changes h
  | restart => exact restart_changes h
  | restartHoldAndLeasePart => exact restartHoldAndLeasePart_changes h
  | restartTransactionPart => exact restartTransactionPart_changes h
  | restartNoticePart p => exact restartNoticePart_changes h
  | restartAnswer => exact restartAnswer_changes h
  | storeWriteEnd result => exact storeWriteEnd_changes h
  | storeLimitExpiry => exact storeLimitExpiry_changes h
  | characterReceived l x => exact characterReceived_changes h

/-! ## What every step keeps of the tables, the configuration, the images and the staged items -/

/-- The images of the store, and the one being written, fit (R164). -/
structure Store.ImagesOk (st : Store) : Prop where
  slot0 : ∀ i ∈ st.slot0.image?, i.ok
  slot1 : ∀ i ∈ st.slot1.image?, i.ok
  written : ∀ op ∈ st.op, op.image.ok

/-- The invariant of the tables as a property of the governed part. -/
structure Governed.TablesOk (g : Governed) : Prop where
  settings : g.settings.ok
  table : g.table.ok g.settings.protectedWays
  store : g.store.ImagesOk
  staged : ∀ x ∈ g.session, ∀ item ∈ x.list, item.ok

theorem State.tablesOk_iff (s : State) : s.TablesOk ↔ s.governed.TablesOk :=
  ⟨fun ⟨hc, ht, h0, h1, hw, hs⟩ => ⟨hc, ht, ⟨h0, h1, hw⟩, hs⟩,
    fun ⟨hc, ht, ⟨h0, h1, hw⟩, hs⟩ => ⟨hc, ht, h0, h1, hw, hs⟩⟩

/-- A slot that takes an image that fits, or none, leaves the images fitting. -/
theorem Store.ImagesOk.withSlot {st : Store} (h : st.ImagesOk) (i : Fin 2) {slot : ImageSlot}
    (hslot : ∀ image ∈ slot.image?, image.ok) :
    (∀ image ∈ (st.withSlot i slot).slot0.image?, image.ok)
      ∧ ∀ image ∈ (st.withSlot i slot).slot1.image?, image.ok := by
  unfold Store.withSlot
  split
  · exact ⟨hslot, h.slot1⟩
  · exact ⟨h.slot0, hslot⟩

theorem Store.ImagesOk.survives {before after : Store} (h : before.ImagesOk) (hs : before.Survives after) :
    after.ImagesOk :=
  ⟨hs.slot0 ▸ h.slot0, hs.slot1 ▸ h.slot1, by rw [hs.idle]; nofun⟩

theorem Store.ImagesOk.select {st : Store} (h : st.ImagesOk) : st.select.image.ok :=
  Store.select_image_ok h.slot0 h.slot1

/-- The image that an operation writes fits (R164, Table 10-3). -/
theorem Governed.TablesOk.imageSource {s : State} (h : s.governed.TablesOk) (kind : StoreKind) :
    (s.imageSource kind).ok := by
  cases kind with
  | commit => exact Image.ok_of_withoutHits h.settings h.table s.lock
  | setLock => exact Image.ok_of_withoutHits h.settings h.table true
  | eraseProtected => exact Image.ok_of_withoutHits h.settings h.table.withoutProtected false

/-- What a success does at the table and the session frees ways and empties a list at most (R169). -/
theorem Governed.TablesOk.storeEffect {s : State} (h : s.governed.TablesOk) (kind : StoreKind) :
    (s.storeEffect kind).governed.TablesOk := by
  cases kind with
  | commit => exact h
  | setLock =>
    refine { h with staged := ?_ }
    rintro x hx item hitem
    obtain ⟨y, hy, rfl⟩ := Option.map_eq_some_iff.1 hx
    unfold Session.downgraded at hitem
    split at hitem
    · cases hitem
    · exact h.staged y hy item hitem
  | eraseProtected => exact { h with table := h.table.withoutProtected }

theorem Governed.TablesOk.start : State.reset.governed.TablesOk where
  settings := Settings.default_ok
  table := Image.blank_ok.2.1
  store := ⟨nofun, nofun, nofun⟩
  staged := nofun

/-- What any command can leave keeps the tables. -/
theorem Changes.keepsTables {s t : State} {c : Instr} (h : Changes s t c) (hs : s.governed.TablesOk) :
    t.governed.TablesOk := by
  cases h with
  | nothing h => rwa [h]
  | lost store _ hkept h => rw [h]; exact { Governed.TablesOk.start with store := hs.store.survives hkept }
  | loaded store hkept h =>
    rw [h]
    obtain ⟨hsettings, htable, _⟩ := hs.store.select
    exact ⟨hsettings, htable.withoutHits, hs.store.survives hkept, nofun⟩
  | reloaded h =>
    rw [h]
    obtain ⟨hsettings, htable, _⟩ := hs.store.select
    exact ⟨hsettings, htable.withoutHits, hs.store, nofun⟩
  | hit station block h => rw [h]; exact { hs with table := hs.table.raiseHit _ }
  | applied x w hx hw h =>
    rw [h]
    have hworking : Working.ok ⟨s.table, s.settings⟩ := ⟨hs.settings, hs.table⟩
    obtain ⟨hsettings, htable⟩ := hworking.tryItems (hs.staged x hx) hw
    refine ⟨hsettings, htable, hs.store, ?_⟩
    rintro _ ⟨⟩ item hitem
    cases hitem
  | leases leases _ h => rw [h]; exact { hs with }
  | session x _ hx h =>
    rw [h]
    refine { hs with staged := fun y hy item hitem => ?_ }
    rcases hx y hy item hitem with hok | ⟨z, hz, hold⟩
    · exact hok
    · exact hs.staged z hz item hold
  | dispatched tag h => rw [h]; exact { hs with }
  | mode mode h => rw [h]; exact { hs with }
  | restarted mode leases h => rw [h]; exact { hs with }
  | storeStarted kind op i _ hop h =>
    rw [h]
    obtain ⟨h0, h1⟩ := hs.store.withSlot i (slot := .writing) nofun
    refine { hs with store := ⟨h0, h1, ?_⟩ }
    rintro _ ⟨⟩
    exact hop ▸ hs.imageSource kind
  | storeFailed i failures faulted _ h =>
    rw [h]
    obtain ⟨h0, h1⟩ := hs.store.withSlot i (slot := .erased) nofun
    exact { hs with store := ⟨h0, h1, nofun⟩ }
  | storeSucceeded op hop h =>
    rw [h]
    have himage : ∀ i ∈ (ImageSlot.valid op.generation op.image).image?, i.ok := by
      rintro _ ⟨⟩
      exact hs.store.written op hop
    obtain ⟨h0, h1⟩ := hs.store.withSlot op.target himage
    refine Governed.TablesOk.storeEffect ?_ op.kind
    exact { hs with store := ⟨h0, h1, nofun⟩ }

/-- Settles O52: of the governed part, which the invariant is about, a step leaves what its command can. -/
theorem everyStepKeepsTheTables : Obligations.EveryStepKeepsTheTables := by
  intro s t hs h
  rw [State.tablesOk_iff] at hs ⊢
  unfold step at h
  split at h
  · cases h
    exact hs
  · exact (exec_changes h).keepsTables hs

/-! ## Who may change what -/


end Sys2Proof.Machine

/-! ## Who may change what (R45, R48, R56, R109, R157, R163, Table 5-1) -/

namespace Sys2Proof.Machine

/-- The governed part agrees field by field. -/
theorem State.governed_eq_iff {t : State} {g : Governed} :
    t.governed = g ↔ t.lock = g.lock ∧ t.table = g.table ∧ t.settings = g.settings ∧ t.mode = g.mode
      ∧ t.leases = g.leases ∧ t.store = g.store ∧ t.tagCounter = g.tagCounter ∧ t.session = g.session :=
  Governed.ext_iff

/-- The success of an operation leaves the mode, the lease groups, the configuration, the store and the relay
tag counter as they were (R169). -/
theorem State.storeEffect_frame (s : State) (kind : StoreKind) :
    ∃ lock table session, (s.storeEffect kind).governed
      = { s.governed with lock := lock, table := table, session := session } := by
  cases kind <;> exact ⟨_, _, _, rfl⟩

/-- Settles O60: the cases of what a command can change. -/
theorem onlyTheseCommandsChange : Obligations.OnlyTheseCommandsChange := by
  intro c s t hexec starts
  have hchanges := exec_changes hexec
  clear hexec
  cases hchanges with
  | nothing h =>
    obtain ⟨hlock, htable, hsettings, hmode, hleases, hstore, htag, hsession⟩ := State.governed_eq_iff.1 h
    simp [hlock, htable, hsettings, hmode, hleases, hstore, htag, hsession, State.governed]
  | lost store hc hkept h =>
    have hstart : starts := by tauto
    obtain ⟨_, _, _, _, _, hstore, _, _⟩ := State.governed_eq_iff.1 h
    simp [hstart, hstore, hkept.slot0, hkept.slot1]
  | loaded store hkept h =>
    have hstart : starts := by tauto
    obtain ⟨_, _, _, _, _, hstore, _, _⟩ := State.governed_eq_iff.1 h
    simp [hstart, hstore, hkept.slot0, hkept.slot1]
  | reloaded h =>
    obtain ⟨_, _, _, hmode, hleases, hstore, htag, _⟩ := State.governed_eq_iff.1 h
    simp [hmode, hleases, hstore, htag, State.governed]
  | hit station block h =>
    obtain ⟨hlock, _, hsettings, hmode, hleases, hstore, htag, hsession⟩ := State.governed_eq_iff.1 h
    simp [hlock, hsettings, hmode, hleases, hstore, htag, hsession, State.governed]
  | applied x w _ _ h =>
    obtain ⟨hlock, _, _, hmode, hleases, hstore, htag, _⟩ := State.governed_eq_iff.1 h
    simp [hlock, hmode, hleases, hstore, htag, State.governed]
  | leases leases hc h =>
    obtain ⟨hlock, htable, hsettings, hmode, _, hstore, htag, hsession⟩ := State.governed_eq_iff.1 h
    unfold Instr.IsLeaseCommand at hc
    simp only [hlock, htable, hsettings, hmode, hstore, htag, hsession, State.governed]
    tauto
  | session x hc _ h =>
    obtain ⟨hlock, htable, hsettings, hmode, hleases, hstore, htag, _⟩ := State.governed_eq_iff.1 h
    have hlist (hmem : c ∈ [.sessionOpen, .sessionClose, .stageConfig, .stageAdd, .stageModify,
        .stageDelete, .discard]) : c ∈ [.sessionOpen, .sessionClose, .stageConfig, .stageAdd, .stageModify,
        .stageDelete, .apply, .discard] := by
      revert hmem
      simp only [List.mem_cons]
      tauto
    simp only [hlock, htable, hsettings, hmode, hleases, hstore, htag, State.governed, ne_eq,
      not_true_eq_false, false_imp_iff, or_self, true_and]
    rcases hc with hidle | hdown | htelegram | hmem
    · exact fun _ => .inr (.inr (.inr (.inl hidle)))
    · exact fun _ => .inr (.inr (.inr (.inr (.inl hdown))))
    · exact fun _ => .inr (.inr (.inr (.inr (.inr (.inl htelegram)))))
    · exact fun _ => .inr (.inr (.inr (.inr (.inr (.inr (hlist hmem))))))
  | dispatched tag h =>
    obtain ⟨hlock, htable, hsettings, hmode, hleases, hstore, _, hsession⟩ := State.governed_eq_iff.1 h
    simp [hlock, htable, hsettings, hmode, hleases, hstore, hsession, State.governed]
  | mode mode h =>
    obtain ⟨hlock, htable, hsettings, _, hleases, hstore, htag, hsession⟩ := State.governed_eq_iff.1 h
    simp [hlock, htable, hsettings, hleases, hstore, htag, hsession, State.governed]
  | restarted mode leases h =>
    obtain ⟨hlock, htable, hsettings, _, _, hstore, htag, hsession⟩ := State.governed_eq_iff.1 h
    simp [hlock, htable, hsettings, hstore, htag, hsession, State.governed]
  | storeStarted kind op i hc _ h =>
    obtain ⟨hlock, htable, hsettings, hmode, hleases, _, htag, hsession⟩ := State.governed_eq_iff.1 h
    simp only [hlock, htable, hsettings, hmode, hleases, htag, hsession, State.governed]
    tauto
  | storeFailed i failures faulted hc h =>
    obtain ⟨hlock, htable, hsettings, hmode, hleases, _, htag, hsession⟩ := State.governed_eq_iff.1 h
    have hend : (∃ r, c = .storeWriteEnd r) ∨ c = .storeLimitExpiry := hc.imp_left fun hc => ⟨_, hc⟩
    simp only [hlock, htable, hsettings, hmode, hleases, htag, hsession, State.governed]
    tauto
  | storeSucceeded op _ h =>
    obtain ⟨lock, table, session, heffect⟩ := State.storeEffect_frame _ op.kind
    obtain ⟨_, _, hsettings, hmode, hleases, _, htag, _⟩ := State.governed_eq_iff.1 (h.trans heffect)
    simp [hsettings, hmode, hleases, htag, State.governed]

end Sys2Proof.Machine

/-! ## Hit raises, the reads of the table, and the items of a change list (R40 to R51, R153) -/

namespace Sys2Proof.Machine

/-! ### Hit raises -/

/-- A hit raise replaces the entry that the lookup finds, and no other way (R40, R47). -/
theorem Table.raiseHit_of_lookup {t : Table} {k : Key} {w : Fin 4} {e : RuleEntry}
    (h : t.lookup k = some (w, e)) :
    t.raiseHit k = t.setWay k.bucket w (some { e with hits := min 65535 (e.hits + 1) }) := by
  rw [Table.raiseHit, h, ← raise16_eq]

theorem Table.raiseHit_of_no_entry {t : Table} {k : Key} (h : t.lookup k = none) : t.raiseHit k = t := by
  rw [Table.raiseHit, h]

/-- A raise that was asked for is taken (R40). -/
theorem hitCountRaise_taken {s : State} {station : Byte} {block : Nat} (hrun : s.phase = .running)
    (hasked : ⟨station, block⟩ ∈ s.hitRaises) :
    exec (.hitCountRaise station block) s
      = .next { s with
        hitRaises := s.hitRaises.erase ⟨station, block⟩, table := s.table.raiseHit ⟨station, block⟩ } := by
  simp only [exec, execHitCountRaise, State.whenRunning_running hrun, if_pos hasked]

/-- Settles O14: the raise is taken at the way that the lookup finds. -/
theorem hitRaiseCountsAtTheKey : Obligations.HitRaiseCountsAtTheKey := by
  intro s station block hrun hasked
  rw [hitCountRaise_taken hrun hasked]
  refine ⟨fun hno => by rw [Table.raiseHit_of_no_entry hno], fun w e hfound => ⟨_, rfl, fun b v => ?_, rfl⟩⟩
  have hbucket : b = (Key.mk station block).bucket ↔ b.val = (block + 9 * station.toNat) % 128 := Fin.ext_iff
  rw [Table.raiseHit_of_lookup hfound, Table.setWay_get]
  simp only [hbucket]

/-! ### READ_ENTRY and READ_BUCKET -/

/-- An entry under the lock: protected, it shows its key, its mark and its hit count alone (R51). -/
theorem RuleEntry.bytes_seenUnder (e : RuleEntry) (lock : Bool) :
    (e.seenUnder lock).bytes
      = if e.prot = true ∧ lock = true then
          keyBytes e.key ++ [1] ++ List.replicate 14 0 ++ be16 e.hits ++ [0, 0]
        else e.bytes := by
  unfold RuleEntry.seenUnder
  by_cases h : e.prot = true ∧ lock = true
  · rw [if_pos (by simpa using h), if_pos h, RuleEntry.masked, RuleEntry.bytes, RuleEntry.attributes]
    simp only [h.1]
    rfl
  · rw [if_neg (by simpa using h), if_neg h]

/-- The summary of a way: a free way is all zero; an entry is its first ten bytes and its hit count, masked
under the lock when it is protected (R50, R51). -/
theorem waySummary_some (lock : Bool) (e : RuleEntry) :
    waySummary lock (some e)
      = if e.prot = true ∧ lock = true then
          [1, e.station] ++ be16 e.block ++ [1, 0, 0, 0, 0, 0, 0] ++ be16 e.hits
        else 1 :: (e.bytes.take 10 ++ be16 e.hits) := by
  have hhits : (e.seenUnder lock).hits = e.hits := by
    unfold RuleEntry.seenUnder
    split <;> rfl
  have hfirst : waySummary lock (some e)
      = 1 :: ((e.seenUnder lock).bytes.take 10 ++ be16 (e.seenUnder lock).hits) := rfl
  rw [hfirst, hhits, e.bytes_seenUnder]
  split <;> rfl

/-- Two bytes are the number that they carry. -/
theorem be16_ofBe16 (hi lo : Byte) : be16 (ofBe16 hi lo) = [hi, lo] := by
  have hhi : byteOf (ofBe16 hi lo / 256) = hi := by
    apply BitVec.eq_of_toNat_eq
    simp only [byteOf_toNat, ofBe16]
    omega
  have hlo : byteOf (ofBe16 hi lo) = lo := by
    apply BitVec.eq_of_toNat_eq
    simp only [byteOf_toNat, ofBe16]
    omega
  rw [be16, hhi, hlo]

section TableReads
variable {s : State} {m : Mgt} (h : s.Executes m)
include h

/-- READ_ENTRY of data that carry no key in range (R49). -/
theorem readEntry_of_no_key (hc : m.code = 0x0F) (hl : m.data.length = 3) (hk : parseKey m.data = none) :
    exec .readEntry s = .next (s.answered m 0x99 []) := by
  simp only [exec, execReadEntry, State.whenOp_of_length h hc hl, hk]
  rfl

/-- READ_ENTRY of a key: NOT_FOUND, or the bucket, the way and the entry as the lock lets it be seen
(R49, R51). -/
theorem readEntry_of_key {k : Key} (hc : m.code = 0x0F) (hl : m.data.length = 3)
    (hk : parseKey m.data = some k) :
    exec .readEntry s
      = .next (match s.table.lookup k with
        | none => s.answered m 0x98 []
        | some (w, e) =>
          s.answered m 0x00 ([byteOf k.bucket.val, byteOf w.val] ++ (e.seenUnder s.lock).bytes)) := by
  simp only [exec, execReadEntry, State.whenOp_of_length h hc hl, hk]
  rfl

/-- READ_BUCKET: the summaries of the bucket's four ways, or BAD_ARGUMENT for no bucket (R50). -/
theorem readBucket_of_bucket {b : Byte} (hc : m.code = 0x10) (hd : m.data = [b]) (hb : b.toNat < 128) :
    exec .readBucket s
      = .next (s.answered m 0x00 (s.table[b.toNat].toList.flatMap (waySummary s.lock))) := by
  have hl : m.data.length = 1 := by simp [hd]
  simp only [exec, execReadBucket, State.whenOp_of_length h hc hl]
  simp only [hd, Vector.getElem?_eq_getElem hb]
  rfl

theorem readBucket_of_no_bucket {b : Byte} (hc : m.code = 0x10) (hd : m.data = [b]) (hb : 127 < b.toNat) :
    exec .readBucket s = .next (s.answered m 0x99 []) := by
  have hl : m.data.length = 1 := by simp [hd]
  have hnone : s.table[b.toNat]? = none := Vector.getElem?_eq_none (by omega)
  simp only [exec, execReadBucket, State.whenOp_of_length h hc hl]
  simp only [hd, hnone]
  rfl

end TableReads

/-- The ways of a bucket in the order of their numbers. -/
theorem Bucket.toList_eq (b : Bucket) : b.toList = [b[0], b[1], b[2], b[3]] := by
  apply List.ext_getElem
  · simp
  · intro i hi _
    have hi' : i < 4 := by simpa using hi
    have hcases : i = 0 ∨ i = 1 ∨ i = 2 ∨ i = 3 := by omega
    rcases hcases with rfl | rfl | rfl | rfl <;> simp

/-- Settles O40: the two reads, with the bytes of an entry as the lock lets it be seen. -/
theorem tableReadsAreMasked : Obligations.TableReadsAreMasked := by
  intro s m h
  refine ⟨fun st bh bl hc hd => ?entry, fun b hc hd => ?bucket⟩
  case entry =>
    intro block found
    have hl : m.data.length = 3 := by simp [hd]
    have hread : parseKey m.data = if (Key.mk st block).inRange then some ⟨st, block⟩ else none := by
      rw [hd]
      exact parseKey_eq st bh bl
    refine ⟨fun hrange => ?_, fun h1 h62 hblock hno => ?_, fun w e h1 h62 hblock hfound => ?_⟩
    · have hno : ¬(Key.mk st block).inRange = true := by rw [Key.inRange_iff]; dsimp only; omega
      exact readEntry_of_no_key h hc hl (hread.trans (if_neg hno))
    · have hkey : (Key.mk st block).inRange = true := (Key.inRange_iff _).2 ⟨h1, h62, hblock⟩
      rw [readEntry_of_key h hc hl (hread.trans (if_pos hkey)), show s.table.lookup _ = none from hno]
    · have hkey : (Key.mk st block).inRange = true := (Key.inRange_iff _).2 ⟨h1, h62, hblock⟩
      have hbytes : keyBytes e.key = [st, bh, bl] := by
        rw [(Table.lookup_some hfound).2, keyBytes]
        exact congrArg (st :: ·) (be16_ofBe16 bh bl)
      rw [readEntry_of_key h hc hl (hread.trans (if_pos hkey)),
        show s.table.lookup _ = some (w, e) from hfound]
      simp only [RuleEntry.bytes_seenUnder, hbytes]
      rfl
  case bucket =>
    intro summary
    refine ⟨readBucket_of_no_bucket h hc hd, fun hb => ?_⟩
    have hsummary (v : Option RuleEntry) : waySummary s.lock v = summary v := by
      cases v with
      | none => rfl
      | some e => exact waySummary_some s.lock e
    rw [readBucket_of_bucket h hc hd hb]
    refine State.next_answered_congr s m 0x00 ?_
    rw [Bucket.toList_eq]
    simp only [List.flatMap_cons, List.flatMap_nil, hsummary, List.append_nil, List.append_assoc]

/-! ### The items of a change list -/

section Items
variable (w : Working) {role : Role} {lock : Bool}

/-- The protection test, as it is asked of an item that touches a protected entry (R44). -/
theorem protected_and_fails_iff {prot : Bool} :
    (prot && !protectionPasses role lock) = true ↔ prot = true ∧ ¬(role = .integrator ∧ lock = false) := by
  rw [Bool.and_eq_true, Bool.not_eq_true', ← Bool.not_eq_true, protectionPasses_iff]

theorem Working.tryAdd_prot {e : RuleEntry} (hp : e.prot = true) (h : ¬(role = .integrator ∧ lock = false)) :
    w.tryAdd role lock e = .error .prot := if_pos (protected_and_fails_iff.2 ⟨hp, h⟩)

/-- An ADD past the protection test: its key is there already, its bucket has no open way, or it is put at the
lowest one (R37, R41). -/
theorem Working.tryAdd_of_may {e : RuleEntry} (h : e.prot = true → role = .integrator ∧ lock = false) :
    w.tryAdd role lock e
      = if (w.table.lookup e.key).isSome then .error .keyExists
        else match Bucket.freeWay w.table[e.key.bucket] w.settings.protectedWays e.prot with
          | none => .error .bucketFull
          | some way => .ok { w with table := w.table.setWay e.key.bucket way (some { e with hits := 0 }) } :=
  if_neg fun hfails => (protected_and_fails_iff.1 hfails).2 (h (protected_and_fails_iff.1 hfails).1)

/-- A MODIFY of a key that the table holds: the protection test, then the marks (R42, R44). -/
theorem Working.tryModify_of_lookup {e old : RuleEntry} {v : Fin 4}
    (h : w.table.lookup e.key = some (v, old)) :
    w.tryModify role lock e
      = if old.prot = true ∧ ¬(role = .integrator ∧ lock = false) then .error .prot
        else if e.prot ≠ old.prot then .error .badField
        else .ok { w with
          table := w.table.setWay e.key.bucket v (some { e with hits := old.hits }) } := by
  simp only [Working.tryModify, h, protected_and_fails_iff]

/-- A DELETE of a key that the table holds: the protection test, then the way is freed (R43, R44). -/
theorem Working.tryDelete_of_lookup {k : Key} {old : RuleEntry} {v : Fin 4}
    (h : w.table.lookup k = some (v, old)) :
    w.tryDelete role lock k
      = if old.prot = true ∧ ¬(role = .integrator ∧ lock = false) then .error .prot
        else .ok { w with table := w.table.setWay k.bucket v none } := by
  simp only [Working.tryDelete, h, protected_and_fails_iff]

end Items

/-- Settles O44: each kind of item, test by test in the order of Table 3-4. -/
theorem tableItemsAreTried : Obligations.TableItemsAreTried := by
  classical
  intro w role lock may P
  refine ⟨fun e => ?add, fun e => ?modify, fun k => ?delete, fun i v hi hv => ?config, fun n => ?ways⟩
  case add =>
    intro canHold
    have hcan (v : Fin 4) : canHold v ↔ Bucket.CanHold w.table[e.key.bucket] P e.prot v := Iff.rfl
    simp only [hcan]
    refine ⟨w.tryAdd_prot, fun hmay hheld => ?_, fun hmay hno hfull => ?_, fun v hmay hno hv hlower => ?_⟩
    · exact (w.tryAdd_of_may hmay).trans (if_pos (Option.isSome_iff_ne_none.2 hheld))
    · refine (w.tryAdd_of_may hmay).trans ((if_neg (by simp [hno])).trans ?_)
      rw [Bucket.freeWay_eq_none.2 hfull]
    · refine (w.tryAdd_of_may hmay).trans ((if_neg (by simp [hno])).trans ?_)
      rw [Bucket.freeWay_eq_some.2 ⟨hv, hlower⟩]
  case modify =>
    refine ⟨fun hno => by simp only [Working.tryItem, Working.tryModify, hno], fun v old hfound => ?_⟩
    have htry := w.tryModify_of_lookup (role := role) (lock := lock) hfound
    refine ⟨fun hp hno => ?_, fun hmay hmark => ?_, fun hmay hmark => ?_⟩
    · exact htry.trans (if_pos ⟨hp, hno⟩)
    · exact htry.trans ((if_neg fun hp => hp.2 (hmay hp.1)).trans (if_pos hmark))
    · exact htry.trans ((if_neg fun hp => hp.2 (hmay hp.1)).trans (if_neg (not_not.2 hmark)))
  case delete =>
    refine ⟨fun hno => by simp only [Working.tryItem, Working.tryDelete, hno], fun v old hfound => ?_⟩
    have htry := w.tryDelete_of_lookup (role := role) (lock := lock) hfound
    refine ⟨fun hp hno => ?_, fun hmay => ?_⟩
    · exact htry.trans (if_pos ⟨hp, hno⟩)
    · exact htry.trans (if_neg fun hp => hp.2 (hmay hp.1))
  case config =>
    exact ⟨_, w.tryItem_config role lock v hi, w.settings.get_put_same hv,
      fun j hj => w.settings.get_put_other v hj⟩
  case ways =>
    intro blocks
    have htry := w.tryWays_eq lock n
    refine ⟨fun hlock => ?_, fun hlock hany => ?_, fun hlock hnone => ?_⟩
    · exact htry.trans (if_pos hlock)
    · exact htry.trans ((if_neg (by simp [hlock])).trans (if_pos hany))
    · refine htry.trans ((if_neg (by simp [hlock])).trans (if_neg ?_))
      rintro ⟨b, v, e, hblocks⟩
      exact hnone b v e hblocks

end Sys2Proof.Machine

/-! ## Screening by Table 4-2, admission and the meters (R60 to R73) -/

namespace Sys2Proof.Machine

/-! ### Ops by their codes (Table 1-3, R5) -/

theorem Op.ofCode_eq_some {c : Byte} {op : Op} : Op.ofCode c = some op ↔ c = op.code := by
  constructor
  · intro h
    unfold Op.ofCode at h
    split_ifs at h <;> cases h <;> assumption
  · rintro rfl
    cases op <;> rfl

/-- Codes 0 and 4 to 255 name no op (R5). -/
theorem Op.ofCode_eq_none {c : Byte} : Op.ofCode c = none ↔ c = 0 ∨ 3 < c.toNat := by
  unfold Op.ofCode
  split_ifs with h1 h2 h3
  · simp [h1]
  · simp [h2]
  · simp [h3]
  · simp only [true_iff]
    bv_omega

theorem Op.code_eq_two_iff (op : Op) : op.code = 2 ↔ op = .write := by
  cases op <;> decide

/-! ### The first check that fails -/

/-- The status of the first check of a list that fails. -/
def firstStatus (checks : List (Bool × Byte)) : Option Byte := (checks.find? (·.1)).map (·.2)

theorem State.refusal_eq_firstStatus (s : State) (p : Port) (t : Telegram) :
    s.refusal p t = firstStatus (s.checks p t) := rfl

@[simp] theorem firstStatus_nil : firstStatus [] = none := rfl

@[simp] theorem firstStatus_cons (fails : Bool) (status : Byte) (rest : List (Bool × Byte)) :
    firstStatus ((fails, status) :: rest) = if fails then some status else firstStatus rest := by
  cases fails <;> rfl

theorem firstStatus_fail {fails : Bool} (h : fails = true) (status : Byte) (rest : List (Bool × Byte)) :
    firstStatus ((fails, status) :: rest) = some status := by
  simp [h]

theorem firstStatus_pass {fails : Bool} (h : fails = false) (status : Byte) (rest : List (Bool × Byte)) :
    firstStatus ((fails, status) :: rest) = firstStatus rest := by
  simp [h]

@[simp] theorem firstStatus_append (front back : List (Bool × Byte)) :
    firstStatus (front ++ back) = (firstStatus front).or (firstStatus back) := by
  simp [firstStatus, List.find?_append, Option.map_or]

/-! ### Checks 8 and 9 as rows of Table 4-2 (R65, R66) -/

/-- Check 8 as its two rows: LEASED, then NO_LEASE. -/
def State.leaseRows (s : State) (p : Port) (op : Op) (g : Nat) : List (Bool × Byte) :=
  [(op.needsLease && g != 0 && s.holds p.other g, 0x82),
    (op.needsLease && g != 0 && (s.lease g).isNone, 0x83)]

/-- Check 9 as its two rows: BAD_LENGTH, then OUT_OF_RANGE. -/
def limitRows (e : RuleEntry) (op : Op) (data : List Byte) : List (Bool × Byte) :=
  [(op.code = 2 && e.limitPresent && data.length != 4, 0x85),
    (op.code = 2 && e.limitPresent
      && (signedData data < e.limitLow.toInt || e.limitHigh.toInt < signedData data), 0x84)]

theorem Port.eq_other_iff {p q : Port} : q = p.other ↔ q ≠ p := by
  cases p <;> cases q <;> decide

/-- Check 8 fails by its rows: a held group is the port's own, or the other port's (R65). -/
theorem State.leaseCheck_rows (s : State) (p : Port) (op : Op) (g : Nat) :
    (s.leaseCheck p op g).map RelayStatus.code = firstStatus (s.leaseRows p op g) := by
  cases hneeds : op.needsLease && g != 0 with
  | false => simp [State.leaseCheck, State.leaseRows, hneeds]
  | true =>
    cases hl : s.lease g with
    | none => simp [State.leaseCheck, State.leaseRows, State.holds, hneeds, hl, RelayStatus.code]
    | some l =>
      by_cases hown : l.holder = p <;>
        simp [State.leaseCheck, State.leaseRows, State.holds, hneeds, hl, hown, Port.eq_other_iff,
          RelayStatus.code]

/-- The four data bytes of a WRITE under limits carry the value that R5 reads. -/
theorem limitValue_toInt (b3 b2 b1 b0 : Byte) :
    (b3 ++ b2 ++ b1 ++ b0).toInt = signedData [b3, b2, b1, b0] := by
  have hword : b3 ++ b2 ++ b1 ++ b0
      = BitVec.ofNat 32 ((((0 * 256 + b3.toNat) * 256 + b2.toNat) * 256 + b1.toNat) * 256 + b0.toNat) := by
    apply BitVec.eq_of_toNat_eq
    rw [append_four_bytes_toNat, ofBe32, BitVec.toNat_ofNat]
    omega
  rw [hword]
  rfl

theorem limitValue_eq_none {data : List Byte} (h : data.length ≠ 4) : limitValue data = none := by
  unfold limitValue
  split
  · exact absurd rfl h
  · rfl

theorem limitValue_eq_some {data : List Byte} (h : data.length = 4) :
    ∃ v, limitValue data = some v ∧ v.toInt = signedData data := by
  obtain ⟨b3, b2, b1, b0, rfl⟩ : ∃ b3 b2 b1 b0, data = [b3, b2, b1, b0] := by
    match data, h with
    | [b3, b2, b1, b0], _ => exact ⟨b3, b2, b1, b0, rfl⟩
  exact ⟨_, rfl, limitValue_toInt b3 b2 b1 b0⟩

/-- Check 9 fails by its rows (R66). -/
theorem limitCheck_rows (e : RuleEntry) (op : Op) (data : List Byte) :
    (limitCheck e op data).map RelayStatus.code = firstStatus (limitRows e op data) := by
  simp only [limitCheck, limitRows, Op.code_eq_two_iff]
  by_cases happlies : op = .write ∧ e.limitPresent = true
  case neg =>
    have hoff : (decide (op = .write) && e.limitPresent) = false := by simpa using happlies
    simp [hoff, Bool.and_comm e.limitPresent]
  case pos =>
    obtain ⟨rfl, hpresent⟩ := happlies
    by_cases hlen : data.length = 4
    · obtain ⟨v, hv, hsigned⟩ := limitValue_eq_some hlen
      simp only [hpresent, hv, hsigned, hlen]
      split_ifs <;> simp_all [RelayStatus.code]
    · simp [hpresent, limitValue_eq_none hlen, hlen, RelayStatus.code]

/-! ### What a screening decides -/

/-- Checks 7 to 12 under the copy `e` of the rule, as rows of Table 4-2. -/
def State.rowsUnder (s : State) (p : Port) (t : Telegram) (op : Op) (e : RuleEntry) : List (Bool × Byte) :=
  [(!(e.ops.get p).has op, 0x81)] ++ s.leaseRows p op e.group ++ limitRows e op t.data
    ++ [(decide ((s.station t.dest.toNat).state = .quarantined), 0x88), (s.queueFull p, 0x8A),
      (s.meterEmpty e.meter, 0x89)]

/-- The screening under a rule: refused by the first row that fails, or else admitted with the op the code
names (R60, Table 4-3). -/
theorem State.screenUnder_cases (s : State) (p : Port) (t : Telegram) (op : Op) (e : RuleEntry) :
    (∃ st, s.screenUnder p t op e = .refused st ∧ firstStatus (s.rowsUnder p t op e) = some st.code)
      ∨ firstStatus (s.rowsUnder p t op e) = none
        ∧ s.screenUnder p t op e = .admitted (heldOf p t op e) e.meter := by
  simp only [State.rowsUnder, firstStatus_append, ← State.leaseCheck_rows, ← limitCheck_rows,
    State.screenUnder]
  cases (e.ops.get p).has op
  case false => exact .inl ⟨.denied, rfl, rfl⟩
  case true =>
    cases s.leaseCheck p op e.group
    case some st => exact .inl ⟨st, rfl, rfl⟩
    case none =>
      cases limitCheck e op t.data
      case some st => exact .inl ⟨st, rfl, rfl⟩
      case none =>
        by_cases hquarantined : (s.station t.dest.toNat).state = .quarantined
        · exact .inl ⟨.noStation, if_pos hquarantined, by simp [hquarantined, RelayStatus.code]⟩
        cases hfull : s.queueFull p
        case true =>
          exact .inl ⟨.queueFull, by simp [hquarantined], by simp [hquarantined, RelayStatus.code]⟩
        cases hempty : s.meterEmpty e.meter
        case true => exact .inl ⟨.rate, by simp [hquarantined], by simp [hquarantined, RelayStatus.code]⟩
        exact .inr ⟨by simp [hquarantined], by simp [hquarantined]⟩

/-- A meter fails check 12 when it exists and is empty (R69). -/
theorem State.meterEmpty_eq (s : State) (n : Nat) :
    s.meterEmpty n = (s.meter n).any fun m => m.tokens = 0 := by
  unfold State.meterEmpty
  cases s.meter n <;> rfl

/-! ### Checks 2 to 6 (R62 to R64) -/

/-- Check 5 of an op is its requirement of Table 1-3 on the length. -/
theorem Op.lengthRow_eq (op : Op) (len : Nat) :
    (op.code = 1 && len != 0 || op.code = 2 && (len = 0 || 32 < len) || op.code = 3 && 32 < len)
      = !op.lengthOk len := by
  cases op
  case read => cases len <;> rfl
  case write => simp [Op.code, Op.lengthOk, ← decide_not]
  case trigger => simp [Op.code, Op.lengthOk, ← decide_not]

/-- Check 7 of an op is its membership in the port's set of the rule. -/
theorem Op.deniedRow_eq (op : Op) (set : OpSet) :
    (op.code = 1 && !set.read || op.code = 2 && !set.write || op.code = 3 && !set.trigger)
      = !set.has op := by
  cases op <;> simp [Op.code, OpSet.has]

theorem Op.acts_eq (op : Op) : (op.code = 2 || op.code = 3) = op.needsLease := by
  cases op <;> rfl

section Rows
variable {s : State} {p : Port} {t : Telegram}

theorem State.refusal_isolated (h : s.mode = .isolated) : s.refusal p t = some 0x8B :=
  (s.refusal_eq_firstStatus p t).trans (firstStatus_fail (by simp [h]) _ _)

section Screening
variable (hmode : s.mode ≠ .isolated)
include hmode

/-- Past check 2, the rows of Table 4-2 from check 3 on decide. -/
theorem State.refusal_of_screening : s.refusal p t = firstStatus ((s.checks p t).drop 1) :=
  (s.refusal_eq_firstStatus p t).trans (firstStatus_pass (by simp [hmode]) _ _)

theorem State.refusal_badAddress (h : ¬isFieldStation t.dest = true) : s.refusal p t = some 0x87 := by
  rw [isFieldStation_iff] at h
  have hrow : t.dest.toNat = 0 ∨ 62 < t.dest.toNat := by omega
  exact (State.refusal_of_screening hmode).trans (firstStatus_fail (by simpa using hrow) _ _)

variable (hdest : isFieldStation t.dest = true)
include hdest

/-- Past check 3, the rows from check 4 on decide. -/
theorem State.refusal_of_station : s.refusal p t = firstStatus ((s.checks p t).drop 2) := by
  obtain ⟨hlow, hhigh⟩ := (isFieldStation_iff _).1 hdest
  have hrow : ¬(t.dest.toNat = 0 ∨ 62 < t.dest.toNat) := by omega
  exact (State.refusal_of_screening hmode).trans (firstStatus_pass (by simpa using hrow) _ _)

theorem State.refusal_badOp (h : Op.ofCode t.code = none) : s.refusal p t = some 0x86 :=
  (State.refusal_of_station hmode hdest).trans
    (firstStatus_fail (by simpa using Op.ofCode_eq_none.1 h) _ _)

variable {op : Op} (hop : t.code = op.code)
include hop

/-- Past check 4, the rows from check 5 on decide. -/
theorem State.refusal_of_op : s.refusal p t = firstStatus ((s.checks p t).drop 3) := by
  have hrow : ¬(t.code = 0 ∨ 3 < t.code.toNat) :=
    Op.ofCode_eq_none.not.1 (by simp [Op.ofCode_eq_some.2 hop])
  exact (State.refusal_of_station hmode hdest).trans (firstStatus_pass (by simpa using hrow) _ _)

theorem State.refusal_badLength (h : ¬op.lengthOk t.data.length = true) : s.refusal p t = some 0x85 :=
  (State.refusal_of_op hmode hdest hop).trans
    (firstStatus_fail (by rw [hop, Op.lengthRow_eq]; simpa using h) _ _)

variable (hlen : op.lengthOk t.data.length = true)
include hlen

/-- Past check 5, the rows from check 6 on decide. -/
theorem State.refusal_of_length : s.refusal p t = firstStatus ((s.checks p t).drop 4) :=
  (State.refusal_of_op hmode hdest hop).trans
    (firstStatus_pass (by rw [hop, Op.lengthRow_eq, hlen]; rfl) _ _)

theorem State.refusal_noRule (h : s.ruleOf t = none) : s.refusal p t = some 0x80 :=
  (State.refusal_of_length hmode hdest hop hlen).trans (firstStatus_fail (by rw [h]; rfl) _ _)

/-- Past checks 2 to 6, the rest of Table 4-2 stands under the rule found. -/
theorem State.refusal_under {e : RuleEntry} (h : s.ruleOf t = some e) :
    s.refusal p t = firstStatus (s.rowsUnder p t op e) := by
  rw [State.refusal_of_length hmode hdest hop hlen]
  refine (firstStatus_pass (by rw [h]; rfl) _ _).trans (congrArg firstStatus ?_)
  simp only [hop, h, Option.any_some, Op.deniedRow_eq, Op.acts_eq, State.rowsUnder, State.leaseRows,
    limitRows, State.meterEmpty_eq, State.queueFull, List.cons_append, List.nil_append]

end Screening
end Rows

theorem State.ruleOf_eq (s : State) (t : Telegram) :
    s.ruleOf t = (s.table.lookup (keyOf t.dest t.object)).map (·.2) := rfl

theorem State.screen_repeats {s : State} {p : Port} {t : Telegram} (h : s.repeats p t) :
    s.screen p t = .absorbed :=
  if_pos ((s.isDuplicate_iff p t).2 h)

/-- The screening of a REQ that repeats nothing: refused by the first row of Table 4-2 that fails, or else
admitted under its rule with the op its code names (R60, Table 4-3). -/
theorem State.screen_cases {s : State} {p : Port} {t : Telegram} (hnew : ¬s.repeats p t) :
    (∃ st, s.screen p t = .refused st ∧ s.refusal p t = some st.code)
      ∨ s.refusal p t = none ∧ ∃ e op, s.ruleOf t = some e ∧ t.code = op.code
        ∧ s.screen p t = .admitted (heldOf p t op e) e.meter := by
  have hdup : ¬s.isDuplicate p t = true := mt (s.isDuplicate_iff p t).1 hnew
  rw [State.screen, if_neg hdup]
  by_cases hmode : s.mode = .isolated
  · exact .inl ⟨.isolated, if_pos hmode, State.refusal_isolated hmode⟩
  rw [if_neg hmode]
  by_cases hdest : isFieldStation t.dest = true
  case neg => exact .inl ⟨.badAddress, by simp [hdest], State.refusal_badAddress hmode hdest⟩
  cases hop : Op.ofCode t.code with
  | none => exact .inl ⟨.badOp, by simp [hdest], State.refusal_badOp hmode hdest hop⟩
  | some op =>
    have hcode := Op.ofCode_eq_some.1 hop
    by_cases hlen : op.lengthOk t.data.length = true
    case neg =>
      exact .inl ⟨.badLength, by simp [hdest, hlen], State.refusal_badLength hmode hdest hcode hlen⟩
    cases hfound : s.table.lookup (keyOf t.dest t.object) with
    | none =>
      have hrule : s.ruleOf t = none := by rw [State.ruleOf_eq, hfound]; rfl
      exact .inl ⟨.noRule, by simp [hdest, hlen], State.refusal_noRule hmode hdest hcode hlen hrule⟩
    | some found =>
      have hrule : s.ruleOf t = some found.2 := by rw [State.ruleOf_eq, hfound]; rfl
      rw [State.refusal_under hmode hdest hcode hlen hrule]
      simp only [hdest, hlen, Bool.not_true, Bool.false_eq_true, if_false]
      obtain hrefused | ⟨hpasses, hadmitted⟩ := s.screenUnder_cases p t op found.2
      · exact .inl hrefused
      · exact .inr ⟨hpasses, found.2, op, hrule, hcode, hadmitted⟩

/-! ### A screening taken whole -/

/-- The REQ that waits first is judged (R60). -/
theorem screening_judges {s : State} {p : Port} {t : Telegram} {rest : List Telegram}
    (hrun : s.phase = .running) (hfirst : s.toScreen.get p = t :: rest) :
    exec (.screening (.judge p)) s
      = .next (State.conclude { s with toScreen := s.toScreen.set p rest } p t (s.screen p t)) := by
  simp only [exec, execScreening, State.whenRunning_running hrun, State.judgeFirst, hfirst]

/-- Settles O15: check 1, then the first row of Table 4-2 that fails, and the two later claims. -/
theorem screeningTurnsAway : Obligations.ScreeningTurnsAway := by
  refine ⟨fun s p t rest hrun hfirst => ?judge, fun s p hrun => ?claims⟩
  case judge =>
    rw [screening_judges hrun hfirst]
    refine ⟨fun hrep => ?_, fun status hnew hrefused => ?_⟩
    · rw [State.screen_repeats hrep]
      rfl
    · obtain ⟨st, hscreen, hst⟩ | ⟨hnone, _⟩ := State.screen_cases hnew
      · obtain rfl : st.code = status := Option.some.inj (hst.symm.trans hrefused)
        rw [hscreen]
        rfl
      · cases hnone.symm.trans hrefused
  case claims =>
    simp only [exec, execScreening, State.whenRunning_running hrun]
    refine ⟨fun t rest hhanded => ?_, fun hback => ?_⟩
    · rw [OutputUnit.placeOldest_of_cons s.now (show (s.output p).handed = _ from hhanded)]
      rfl
    · rw [OutputUnit.releaseOne_eq, if_neg (show (s.output p).handedBack ≠ 0 from hback.ne')]
      rfl

/-! ### The meter bank (R69, R72, R73) -/

/-- The meter bank after a token is taken from meter `n`; meter 0 is none (R69). -/
def metersTaken (meters : Vector Meter 32) (now n : Nat) : Vector Meter 32 :=
  Vector.ofFn fun i => if n = i.val + 1 then meters[i].take now else meters[i]

theorem metersTaken_get (meters : Vector Meter 32) (now n : Nat) (i : Fin 32) :
    (metersTaken meters now n)[i] = if n = i.val + 1 then meters[i].take now else meters[i] := by
  simp [metersTaken]

theorem metersTaken_of_fin (meters : Vector Meter 32) (now : Nat) (n : Fin 32) :
    metersTaken meters now (n.val + 1) = meters.set n (meters[n].take now) := by
  ext1 i hi
  rw [Vector.getElem_set]
  refine (metersTaken_get meters now _ ⟨i, hi⟩).trans ?_
  by_cases h : n.val = i
  · subst h
    simp
  · simp [h]

theorem metersTaken_of_no_meter (meters : Vector Meter 32) (now : Nat) {n : Nat}
    (h : ∀ i : Fin 32, n ≠ i.val + 1) : metersTaken meters now n = meters := by
  ext1 i hi
  exact (metersTaken_get meters now n ⟨i, hi⟩).trans (if_neg (h ⟨i, hi⟩))

/-- A meter by its number (R72). -/
theorem State.meter_of_fin (s : State) (n : Fin 32) : s.meter (n.val + 1) = some s.meters[n] :=
  Vector.getElem?_eq_getElem n.isLt

theorem State.meter_of_no_meter (s : State) {n : Nat} (h : ∀ i : Fin 32, n ≠ i.val + 1) :
    s.meter n = none := by
  cases n with
  | zero => rfl
  | succ k => exact Vector.getElem?_eq_none (not_lt.1 fun hk => h ⟨k, hk⟩ rfl)

theorem State.withMeter_of_fin (s : State) (n : Fin 32) (m : Meter) :
    s.withMeter (n.val + 1) m = { s with meters := s.meters.set n m } := by
  have hset : s.meters.setIfInBounds n m = s.meters.set n m := by
    ext1 i hi
    rw [Vector.getElem_setIfInBounds, Vector.getElem_set]
  simp only [State.withMeter, hset]

/-- A take changes the meter bank and nothing else. -/
theorem State.takeToken_eq (s : State) (n : Nat) :
    s.takeToken n = { s with meters := metersTaken s.meters s.now n } := by
  by_cases h : ∃ i : Fin 32, n = i.val + 1
  · obtain ⟨i, rfl⟩ := h
    simp only [State.takeToken, State.meter_of_fin, State.withMeter_of_fin, metersTaken_of_fin]
  · rw [not_exists] at h
    simp only [State.takeToken, State.meter_of_no_meter s h, metersTaken_of_no_meter _ _ h]

theorem Meter.take_eq (now : Nat) (m : Meter) :
    m.take now = { m with
      tokens := m.tokens - 1
      refill := if m.refill = none ∧ m.tokens - 1 < m.size then some (now + 32000 * m.period)
        else m.refill } := by
  simp [Meter.take, msTicks, Nat.mul_comm]

/-- Settles O16: the screening admits, and one token leaves the meter of the rule. -/
theorem screeningAdmits : Obligations.ScreeningAdmits := by
  intro s p t rest hrun hfirst hnew hpasses
  obtain ⟨_, _, hst⟩ | ⟨_, e, op, hrule, hop, hscreen⟩ := State.screen_cases hnew
  · cases hst.symm.trans hpasses
  refine ⟨e, op, metersTaken s.meters s.now e.meter, hrule, hop.symm, fun n => ?_, ?_⟩
  · simp only [metersTaken_get, Meter.take_eq]
  · rw [screening_judges hrun hfirst, hscreen, State.conclude, State.admission, State.takeToken_eq]
    rfl

theorem Meter.refilled_eq (now : Nat) (m : Meter) :
    m.refilled now = { m with
      tokens := m.tokens + 1
      refill := if m.tokens + 1 < m.size then some (now + 32000 * m.period) else none } := by
  simp [Meter.refilled, msTicks, Nat.mul_comm]

/-- Settles O17: the meter gains its token, and its timer runs on while tokens are missing. -/
theorem meterGainsAToken : Obligations.MeterGainsAToken := by
  intro s n due hrun hdue
  simp only [exec, execMeterRefill, State.whenRunning_running hrun, State.meter_of_fin, hdue,
    State.withMeter_of_fin, Meter.refilled_eq]
  rfl

end Sys2Proof.Machine

/-! ## Lease groups (R77 to R82, R84, R86 to R89, R102, R103) -/

namespace Sys2Proof.Machine

/-! ### Lease groups by number -/

/-- Only the groups 1 to 16 are held (R77). -/
theorem State.lease_eq_some_range {s : State} {g : Nat} {l : Lease} (h : s.lease g = some l) :
    1 ≤ g ∧ g ≤ 16 := by
  cases g with
  | zero => cases h
  | succ k =>
    have hk : k < 16 := by
      by_contra hk
      simp [State.lease, hk] at h
    exact ⟨Nat.succ_pos k, hk⟩

theorem State.withLease_of_pos (s : State) {g : Nat} (hg : 1 ≤ g) (l : Option Lease) :
    s.withLease g l = { s with leases := s.leases.setIfInBounds (g - 1) l } := by
  cases g with
  | zero => cases hg
  | succ k => rfl

theorem State.holds_iff {s : State} {p : Port} {g : Nat} :
    s.holds p g = true ↔ ∃ l, s.lease g = some l ∧ l.holder = p := by
  unfold State.holds
  cases s.lease g <;> simp

/-- The groups of a port are those it holds. -/
theorem State.mem_groupsOf {s : State} {p : Port} {g : Nat} :
    g ∈ s.groupsOf p ↔ s.holds p g = true := by
  rw [State.groupsOf, List.mem_filter, List.mem_range'_1]
  refine ⟨fun ⟨_, hg⟩ => hg, fun hg => ⟨?_, hg⟩⟩
  obtain ⟨l, hl, _⟩ := State.holds_iff.1 hg
  have hrange := State.lease_eq_some_range hl
  omega

theorem State.groupsOf_eq_nil {s : State} {p : Port} (h : ∀ g, s.holds p g = false) :
    s.groupsOf p = [] :=
  List.eq_nil_iff_forall_not_mem.2 fun g hg => by simp [State.mem_groupsOf, h] at hg

/-- The lowest group of a port stands first among its groups (R89). -/
theorem State.groupsOf_eq_cons {s : State} {p : Port} {g : Nat} (hg : s.holds p g = true)
    (hleast : ∀ h < g, s.holds p h = false) : ∃ more, s.groupsOf p = g :: more := by
  have hmem : g ∈ s.groupsOf p := State.mem_groupsOf.2 hg
  have hsorted : (s.groupsOf p).Pairwise (· < ·) := (List.pairwise_lt_range' (s := 1) (n := 16)).filter _
  cases hgroups : s.groupsOf p with
  | nil => simp [hgroups] at hmem
  | cons first more =>
    have hfirst : s.holds p first = true := State.mem_groupsOf.1 (by simp [hgroups])
    have hge : ¬first < g := fun hlt => by simp [hleast first hlt] at hfirst
    rw [hgroups] at hmem hsorted
    obtain rfl | hin := List.mem_cons.1 hmem
    · exact ⟨more, rfl⟩
    · exact absurd (List.rel_of_pairwise_cons hsorted hin) hge

/-! ### Losses and their purges (R88, R102, R103) -/

/-- The run of a purge whose selection names one port's requests, as relay RSPs with the raw status code. -/
theorem purgeRun_eq {sel : HeldReq → Bool} {lost : HeldReq → Prop} [DecidablePred lost] {p : Port}
    (hsel : ∀ r, sel r = true ↔ lost r) (hport : ∀ r, lost r → r.port = p) (held : List HeldReq)
    (st : RelayStatus) :
    purgeRun held sel st p
      = (held.filter lost).map fun r => relayAnswer r.source r.station r.tag r.object st.code := by
  have hfilter : (held.filter fun r => sel r && r.port = p) = held.filter lost :=
    List.filter_congr fun r _ => by
      rw [Bool.eq_iff_iff, Bool.and_eq_true, hsel, decide_eq_true_iff, decide_eq_true_iff]
      exact and_iff_left_of_imp (hport r)
  rw [purgeRun, hfilter]
  rfl

theorem State.dropHeld_eq {sel : HeldReq → Bool} {lost : HeldReq → Prop} [DecidablePred lost]
    (hsel : ∀ r, sel r = true ↔ lost r) (s : State) :
    s.dropHeld sel = { s with held := s.held.filter fun r => ¬lost r } := by
  have hfilter : (s.held.filter fun r => !sel r) = s.held.filter fun r => ¬lost r :=
    List.filter_congr fun r _ => by rw [Bool.eq_iff_iff]; simp [← hsel]
  rw [State.dropHeld, hfilter]

theorem Op.needsLease_iff (op : Op) : op.needsLease = true ↔ op ≠ .read := by cases op <;> decide

/-- A loss of one group purges the port's WRITEs and TRIGGERs under it (R88). -/
theorem HeldReq.lostWith_iff (p : Port) (g : Nat) (r : HeldReq) :
    r.lostWith p g = true ↔ r.port = p ∧ r.op ≠ .read ∧ r.group = g := by
  simp [HeldReq.lostWith, Op.needsLease_iff, and_assoc]

/-- A loss of all groups of a port purges its WRITEs and TRIGGERs under those groups (R86, R103). -/
theorem HeldReq.lostWithAny_iff (s : State) (p : Port) (r : HeldReq) :
    r.lostWithAny p (s.groupsOf p) = true ↔ r.port = p ∧ r.op ≠ .read ∧ s.holds p r.group = true := by
  simp only [HeldReq.lostWithAny, List.any_eq_true, State.mem_groupsOf, HeldReq.lostWith_iff]
  constructor
  · rintro ⟨g, hg, hport, hop, rfl⟩
    exact ⟨hport, hop, hg⟩
  · rintro ⟨hport, hop, hg⟩
    exact ⟨r.group, hg, hport, hop, rfl⟩

theorem State.lossRun_eq (s : State) (p : Port) (g : Nat) :
    s.lossRun p g
      = (s.held.filter fun r => r.port = p ∧ r.op ≠ .read ∧ r.group = g).map fun r =>
          relayAnswer r.source r.station r.tag r.object 0x8D :=
  purgeRun_eq (HeldReq.lostWith_iff p g) (fun _ hlost => hlost.1) s.held .leaseLost

theorem State.loseGroup_eq (s : State) (p : Port) {g : Nat} (hg : 1 ≤ g) :
    s.loseGroup p g = { s with
      leases := s.leases.setIfInBounds (g - 1) none
      held := s.held.filter fun r => ¬(r.port = p ∧ r.op ≠ .read ∧ r.group = g) } := by
  rw [State.loseGroup, State.withLease_of_pos s hg, State.dropHeld_eq (HeldReq.lostWith_iff p g)]

/-- A port that loses all its groups leaves every other group as it is (R86). -/
theorem State.lease_loseAll (s : State) (p : Port) (k : Nat) :
    (s.loseAll p).lease k = if s.holds p k then none else s.lease k := by
  have hfilter : (s.loseAll p).lease k = (s.lease k).filter fun x => x.holder ≠ p := by
    cases k with
    | zero => rfl
    | succ i =>
      simp only [State.loseAll, State.dropHeld_leases, State.lease, Vector.getElem?_map]
      cases s.leases[i]? <;> rfl
  rw [hfilter, State.holds]
  cases s.lease k with
  | none => rfl
  | some l => by_cases hl : l.holder = p <;> simp [hl]

theorem State.loseAll_eq (s : State) (p : Port) :
    s.loseAll p = { s with
      leases := (s.loseAll p).leases
      held := s.held.filter fun r => ¬(r.port = p ∧ r.op ≠ .read ∧ s.holds p r.group = true) } := by
  conv_lhs => rw [State.loseAll, State.dropHeld_eq (HeldReq.lostWithAny_iff s p)]
  rfl

/-- A run of purge answers and one more claim are placed in some order, an empty run too (R102, R128). -/
theorem State.taken_run_and (s : State) (p : Port) (run : List Telegram) (claim : State → State) :
    s.TakenInSomeOrder [State.answer p run, claim] (s.inSomeOrder (runClaim p run ++ [claim])) :=
  (s.inSomeOrder_taken _).runClaim_append

/-! ### The happenings of the lease table (R84, R86) -/

/-- A held group expires: its loss, then the claims of that loss (R84, R89). -/
theorem leaseExpiry_of_held {s : State} {g : Nat} {l : Lease} (hrun : s.phase = .running)
    (hlease : s.lease g = some l) :
    exec (.leaseExpiry g) s
      = .next (((s.reach l.expiry).loseGroup l.holder g).inSomeOrder
          (runClaim l.holder (s.lossRun l.holder g)
            ++ [State.request .leaseLost (.group g) l.holder])) := by
  simp only [exec, execLeaseExpiry, State.whenRunning_running hrun, hlease]

/-- Settles O21: the one loss of the group, then its run and its notice. -/
theorem leaseExpiryFreesAndPurges : Obligations.LeaseExpiryFreesAndPurges := by
  intro s g l hrun hlease p lost run
  obtain ⟨hg, _⟩ := State.lease_eq_some_range hlease
  refine ⟨_, leaseExpiry_of_held hrun hlease, ?_⟩
  rw [State.loseGroup_eq _ _ hg, State.lossRun_eq]
  exact State.taken_run_and _ p run _

/-- The lease table takes a DOWN announcement of a port that holds no group (R86). -/
theorem leaseReleaseOnLinkDown_of_none {s : State} {p : Port} {n : Nat} (hrun : s.phase = .running)
    (hdown : s.leaseDown.get p = n + 1) (hnone : ∀ g, s.holds p g = false) :
    exec (.leaseReleaseOnLinkDown p) s = .next { s with leaseDown := s.leaseDown.set p n } := by
  simp only [exec, execLeaseReleaseOnLinkDown, State.whenRunning_running hrun, hdown,
    State.groupsOf_eq_nil hnone]

/-- The lease table takes a DOWN announcement of a port whose lowest group is `g` (R86, R89, R103). -/
theorem leaseReleaseOnLinkDown_of_lowest {s : State} {p : Port} {n g : Nat} (hrun : s.phase = .running)
    (hdown : s.leaseDown.get p = n + 1) (hg : s.holds p g = true)
    (hleast : ∀ h < g, s.holds p h = false) :
    exec (.leaseReleaseOnLinkDown p) s
      = .next ((State.loseAll { s with leaseDown := s.leaseDown.set p n } p).inSomeOrder
          (runClaim p (purgeRun s.held (·.lostWithAny p (s.groupsOf p)) .leaseLost p)
            ++ [State.request .leaseLost (.group g) p])) := by
  obtain ⟨more, hgroups⟩ := State.groupsOf_eq_cons hg hleast
  simp only [exec, execLeaseReleaseOnLinkDown, State.whenRunning_running hrun, hdown, hgroups]

/-- Settles O13: no group held, or one loss of all of them with one run and one notice. -/
theorem linkDownFreesTheLeases : Obligations.LinkDownFreesTheLeases := by
  intro s p n hrun hdown lost run
  refine ⟨leaseReleaseOnLinkDown_of_none hrun hdown, fun g hg hleast => ?_⟩
  refine ⟨_, (State.loseAll { s with leaseDown := s.leaseDown.set p n } p).leases,
    leaseReleaseOnLinkDown_of_lowest hrun hdown hg hleast, State.lease_loseAll _ p, ?_⟩
  rw [State.loseAll_eq, purgeRun_eq (HeldReq.lostWithAny_iff s p) fun _ hlost => hlost.1]
  exact State.taken_run_and _ p run _

/-! ### LEASE_TAKE, LEASE_RENEW and LEASE_RELEASE (R79 to R82) -/

theorem ofBe16_eq_zero (hi lo : Byte) : ofBe16 hi lo = 0 ↔ hi = 0 ∧ lo = 0 := by
  simp only [ofBe16]
  bv_omega

/-- A grant starts the expiry timer with the granted duration (R79 to R81). -/
theorem State.finish_grant (s : State) (m : Mgt) (g : Byte) (d : Nat) (hg : 1 ≤ g.toNat) :
    (s.grant m.port g.toNat d).finish m .done (g :: be16 d)
      = State.answered { s with
          leases := s.leases.setIfInBounds (g.toNat - 1) (some ⟨m.port, d, s.now + 32000 * d⟩) }
          m 0x00 [g, byteOf (d / 256), byteOf d] := by
  have hexpiry : s.inMs d = s.now + 32000 * d := by simp only [State.inMs, msTicks, Nat.mul_comm]
  rw [State.grant, hexpiry, State.withLease_of_pos s hg]
  rfl

/-- The judgement LEASE_RENEW and LEASE_RELEASE share: BAD_ARGUMENT for a number that names no group, on with
the lease of a group that the origin port holds, else NOT_HOLDER (R81, R82). -/
def State.whenHolder (s : State) (m : Mgt) (g : Byte) (f : Lease → State) : State :=
  if g.toNat = 0 || 16 < g.toNat then s.finish m .badArgument []
  else
    match s.lease g.toNat with
    | some l => if l.holder = m.port then f l else s.finish m .notHolder (s.leaseReport (some l))
    | none => s.finish m .notHolder (s.leaseReport none)

theorem State.whenHolder_badGroup (s : State) (m : Mgt) {g : Byte} (hg : g.toNat = 0 ∨ 16 < g.toNat)
    (f : Lease → State) : s.whenHolder m g f = s.answered m 0x99 [] :=
  if_pos (by simpa using hg)

theorem State.whenHolder_free {s : State} {g : Byte} (hlow : 1 ≤ g.toNat) (hhigh : g.toNat ≤ 16)
    (hfree : s.lease g.toNat = none) (m : Mgt) (f : Lease → State) :
    s.whenHolder m g f = s.answered m 0x9F [0, 0, 0] := by
  have hgroup : ¬(g.toNat = 0 ∨ 16 < g.toNat) := by omega
  simp only [State.whenHolder, Bool.or_eq_true, decide_eq_true_eq, if_neg hgroup, hfree]
  rfl

theorem State.whenHolder_other {s : State} {m : Mgt} {g : Byte} {l : Lease}
    (hlease : s.lease g.toNat = some l) (hother : l.holder = m.port.other) (f : Lease → State) :
    s.whenHolder m g f = s.answered m 0x9F (s.leaseReport (some l)) := by
  have hrange := State.lease_eq_some_range hlease
  have hgroup : ¬(g.toNat = 0 ∨ 16 < g.toNat) := by omega
  simp only [State.whenHolder, Bool.or_eq_true, decide_eq_true_eq, if_neg hgroup, hlease, hother,
    if_neg m.port.other_ne]
  rfl

theorem State.whenHolder_holds {s : State} {m : Mgt} {g : Byte} {l : Lease}
    (hlease : s.lease g.toNat = some l) (hholder : l.holder = m.port) (f : Lease → State) :
    s.whenHolder m g f = f l := by
  have hrange := State.lease_eq_some_range hlease
  have hgroup : ¬(g.toNat = 0 ∨ 16 < g.toNat) := by omega
  simp only [State.whenHolder, Bool.or_eq_true, decide_eq_true_eq, if_neg hgroup, hlease, if_pos hholder]

section Leases
variable {s : State} {m : Mgt} (h : s.Executes m)
include h

/-- LEASE_RENEW of a group (R81). -/
theorem leaseRenew_judges {g : Byte} (hc : m.code = 0x15) (hd : m.data = [g]) :
    exec .leaseRenew s = .next (s.whenHolder m g fun l =>
      (s.grant m.port g.toNat l.granted).finish m .done (g :: be16 l.granted)) := by
  have hl : m.data.length = 1 := by simp [hd]
  simp only [exec, execLeaseRenew, State.whenOp_of_length h hc hl, hd]
  rfl

/-- LEASE_RELEASE of a group (R82). -/
theorem leaseRelease_judges {g : Byte} (hc : m.code = 0x16) (hd : m.data = [g]) :
    exec .leaseRelease s = .next (s.whenHolder m g fun _ =>
      (s.freeSlot.loseGroup m.port g.toNat).inSomeOrder
        (runClaim m.port (s.lossRun m.port g.toNat) ++ [State.answer m.port [m.answer .done [g]]])) := by
  have hl : m.data.length = 1 := by simp [hd]
  simp only [exec, execLeaseRelease, State.whenOp_of_length h hc hl, hd]
  rfl

section Take
variable {g hi lo : Byte} (hc : m.code = 0x14) (hd : m.data = [g, hi, lo])
include hc hd

/-- LEASE_TAKE with a number that names no group, or for no time (R79). -/
theorem leaseTake_badArgument (hbad : g.toNat = 0 ∨ 16 < g.toNat ∨ ofBe16 hi lo = 0) :
    exec .leaseTake s = .next (s.answered m 0x99 []) := by
  have hl : m.data.length = 3 := by simp [hd]
  simp only [exec, execLeaseTake, State.whenOp_of_length h hc hl, hd, Bool.or_eq_true,
    decide_eq_true_eq, or_assoc, if_pos hbad]
  rfl

/-- LEASE_TAKE of a group that the other port holds (R80). -/
theorem leaseTake_of_other {l : Lease} (hd0 : ofBe16 hi lo ≠ 0) (hlease : s.lease g.toNat = some l)
    (hother : l.holder = m.port.other) :
    exec .leaseTake s = .next (s.answered m 0x9E (s.leaseReport (some l))) := by
  have hl : m.data.length = 3 := by simp [hd]
  have hrange := State.lease_eq_some_range hlease
  have hgood : ¬(g.toNat = 0 ∨ 16 < g.toNat ∨ ofBe16 hi lo = 0) := by omega
  simp only [exec, execLeaseTake, State.whenOp_of_length h hc hl, hd, Bool.or_eq_true,
    decide_eq_true_eq, or_assoc, if_neg hgood, hlease, hother, if_neg m.port.other_ne]
  rfl

/-- LEASE_TAKE of a group that is free or the port's own (R79, R80). -/
theorem leaseTake_grants (hlow : 1 ≤ g.toNat) (hhigh : g.toNat ≤ 16) (hd0 : ofBe16 hi lo ≠ 0)
    (hown : ∀ l, s.lease g.toNat = some l → l.holder = m.port) :
    exec .leaseTake s
      = .next ((s.grant m.port g.toNat (min (ofBe16 hi lo) s.settings.leaseMax)).finish m .done
          (g :: be16 (min (ofBe16 hi lo) s.settings.leaseMax))) := by
  have hl : m.data.length = 3 := by simp [hd]
  have hgood : ¬(g.toNat = 0 ∨ 16 < g.toNat ∨ ofBe16 hi lo = 0) := by omega
  simp only [exec, execLeaseTake, State.whenOp_of_length h hc hl, hd, Bool.or_eq_true,
    decide_eq_true_eq, or_assoc, if_neg hgood]
  cases hlease : s.lease g.toNat with
  | none => rfl
  | some l => simp only [if_pos (hown l hlease)]

end Take
end Leases

/-- Settles O18: a take and a renewal end in the same grant, each with its own duration. -/
theorem leaseIsGrantedAndRenewed : Obligations.LeaseIsGrantedAndRenewed := by
  intro s m g h hlow hhigh granted
  refine ⟨fun hi lo hc hd hd0 hown => ?take, fun l hc hd hlease hholder => ?renew⟩
  case take =>
    rw [leaseTake_grants h hc hd hlow hhigh hd0 hown, State.finish_grant s m g _ hlow]
    rfl
  case renew =>
    rw [leaseRenew_judges h hc hd, State.whenHolder_holds hlease hholder, State.finish_grant s m g _ hlow]

/-- Settles O19: the refusals of a take, and those of the judgement that renewals and releases share. -/
theorem leaseRefusalsChangeNothing : Obligations.LeaseRefusalsChangeNothing := by
  intro s m g hi lo h left code
  refine ⟨fun hc hd => ⟨fun hbad => ?badTake, fun _ hd0 l hlease hother => ?held⟩, fun hd c hcode => ?holder⟩
  case badTake =>
    rw [← ofBe16_eq_zero] at hbad
    exact leaseTake_badArgument h hc hd hbad
  case held =>
    rw [← ofBe16_eq_zero] at hd0
    exact (leaseTake_of_other h hc hd hd0 hlease hother).trans
      (State.next_answered_congr s m 0x9E (s.leaseReport_eq (some l)))
  case holder =>
    have hjudges : ∃ f, exec c s = .next (s.whenHolder m g f) := by
      obtain ⟨hc, rfl⟩ | ⟨hc, rfl⟩ := hcode
      · exact ⟨_, leaseRenew_judges h hc hd⟩
      · exact ⟨_, leaseRelease_judges h hc hd⟩
    obtain ⟨f, hf⟩ := hjudges
    rw [hf]
    refine ⟨fun hbad => ?_, fun hlow hhigh hfree => ?_, fun _ l hlease hother => ?_⟩
    · rw [State.whenHolder_badGroup s m hbad]
    · rw [State.whenHolder_free hlow hhigh hfree]
    · rw [State.whenHolder_other hlease hother]
      exact State.next_answered_congr s m 0x9F (s.leaseReport_eq (some l))

/-- Settles O20: the one loss of the group, then its run and the answer. -/
theorem leaseReleaseFreesAndPurges : Obligations.LeaseReleaseFreesAndPurges := by
  intro s m g l h hc hd hlow _ hlease hholder lost run
  refine ⟨_, (leaseRelease_judges h hc hd).trans
    (congrArg Host.Outcome.next (State.whenHolder_holds hlease hholder _)), ?_⟩
  rw [State.loseGroup_eq _ _ hlow, State.lossRun_eq]
  exact State.taken_run_and _ m.port run _

end Sys2Proof.Machine

/-! ## Whom the arbiter picks, and the dispatch of its pick (R95 to R99, R109, R110) -/

namespace Sys2Proof.Machine

/-! ### Eligible requests by their place in the hold queue (R95) -/

/-- The request at place `i` of `held` has an IDLE station, and no older request, nor one whose port and
station stand in `seen`, is of its port for its station: conditions 1 and 2 of R95. -/
def State.FirstFor (s : State) (seen : List (Port × Byte)) (held : List HeldReq) (i : Nat) (r : HeldReq) :
    Prop :=
  held[i]? = some r ∧ (s.station r.station.toNat).state = .idle ∧ (r.port, r.station) ∉ seen
    ∧ ∀ j < i, ∀ q, held[j]? = some q → ¬(q.port = r.port ∧ q.station = r.station)

section FirstFor
variable {s : State} {seen : List (Port × Byte)} {first : HeldReq} {rest : List HeldReq} {r : HeldReq}

/-- The oldest request. -/
theorem State.firstFor_zero : s.FirstFor seen (first :: rest) 0 r
    ↔ first = r ∧ (s.station r.station.toNat).state = .idle ∧ (r.port, r.station) ∉ seen := by
  simp [State.FirstFor]

/-- A younger request has also to differ from the oldest one. -/
theorem State.firstFor_succ {i : Nat} : s.FirstFor seen (first :: rest) (i + 1) r
    ↔ s.FirstFor ((first.port, first.station) :: seen) rest i r := by
  simp only [State.FirstFor, List.getElem?_cons_succ, List.mem_cons, not_or, Prod.mk.injEq]
  constructor
  · rintro ⟨hget, hidle, hseen, hold⟩
    have hfirst : ¬(r.port = first.port ∧ r.station = first.station) :=
      fun ⟨hp, hst⟩ => hold 0 i.succ_pos first rfl ⟨hp.symm, hst.symm⟩
    exact ⟨hget, hidle, ⟨hfirst, hseen⟩, fun j hj q hq => hold (j + 1) (Nat.succ_lt_succ hj) q hq⟩
  · rintro ⟨hget, hidle, ⟨hfirst, hseen⟩, hold⟩
    refine ⟨hget, hidle, hseen, fun j hj q hq => ?_⟩
    cases j with
    | zero =>
      obtain rfl : first = q := Option.some.inj hq
      exact fun ⟨hp, hst⟩ => hfirst ⟨hp.symm, hst.symm⟩
    | succ j => exact hold j (Nat.lt_of_succ_lt_succ hj) q hq

/-- The selection keeps the oldest request when conditions 1 and 2 hold of it, and goes on with the others. -/
theorem State.eligibleFrom_cons (s : State) (seen : List (Port × Byte)) (first : HeldReq)
    (rest : List HeldReq) :
    (s.FirstFor seen (first :: rest) 0 first ∧ s.eligibleFrom seen (first :: rest)
        = first :: s.eligibleFrom ((first.port, first.station) :: seen) rest)
      ∨ (∀ r, ¬s.FirstFor seen (first :: rest) 0 r) ∧ s.eligibleFrom seen (first :: rest)
        = s.eligibleFrom ((first.port, first.station) :: seen) rest := by
  by_cases h : (s.station first.station.toNat).state = .idle ∧ (first.port, first.station) ∉ seen
  · exact .inl ⟨State.firstFor_zero.2 ⟨rfl, h⟩, by simp [State.eligibleFrom, h]⟩
  · refine .inr ⟨fun r hr => ?_, ?_⟩
    · obtain ⟨rfl, hr⟩ := State.firstFor_zero.1 hr
      exact h hr
    · have hcond : ¬(decide ((s.station first.station.toNat).state = .idle)
          && !(seen.contains (first.port, first.station))) = true := by simpa using h
      exact if_neg hcond

end FirstFor

/-- The selection holds the requests of which conditions 1 and 2 hold. -/
theorem State.mem_eligibleFrom {s : State} {r : HeldReq} : ∀ {held : List HeldReq}
    {seen : List (Port × Byte)}, r ∈ s.eligibleFrom seen held ↔ ∃ i, s.FirstFor seen held i r
  | [], _ => by simp [State.eligibleFrom, State.FirstFor]
  | first :: rest, seen => by
    have hlater : (∃ i, s.FirstFor seen (first :: rest) (i + 1) r)
        ↔ r ∈ s.eligibleFrom ((first.port, first.station) :: seen) rest := by
      simp only [State.firstFor_succ, State.mem_eligibleFrom]
    rw [← Nat.or_exists_add_one, hlater]
    obtain ⟨hfirst, heq⟩ | ⟨hnone, heq⟩ := s.eligibleFrom_cons seen first rest
    · rw [heq, List.mem_cons]
      refine or_congr_left ⟨fun h => h ▸ hfirst, fun h => ?_⟩
      exact (State.firstFor_zero.1 h).1.symm
    · rw [heq]
      exact (or_iff_right (hnone r)).symm

/-- The selection is ordered by place: a search finds the oldest one that it accepts. -/
theorem State.find?_eligibleFrom {s : State} {accepts : HeldReq → Bool} {r : HeldReq} :
    ∀ {held : List HeldReq} {seen : List (Port × Byte)} {i : Nat}, s.FirstFor seen held i r →
      accepts r = true → (∀ j < i, ∀ q, s.FirstFor seen held j q → ¬accepts q = true) →
      (s.eligibleFrom seen held).find? accepts = some r
  | [], _, _, ⟨hget, _⟩, _, _ => by cases hget
  | first :: rest, seen, 0, hr, hacc, _ => by
    obtain ⟨rfl, _⟩ := State.firstFor_zero.1 hr
    obtain ⟨_, heq⟩ | ⟨hnone, _⟩ := s.eligibleFrom_cons seen first rest
    · rw [heq, List.find?_cons_of_pos hacc]
    · exact absurd hr (hnone first)
  | first :: rest, seen, i + 1, hr, hacc, hleast => by
    have hlater : (s.eligibleFrom ((first.port, first.station) :: seen) rest).find? accepts = some r :=
      State.find?_eligibleFrom (State.firstFor_succ.1 hr) hacc fun j hj q hq =>
        hleast (j + 1) (Nat.succ_lt_succ hj) q (State.firstFor_succ.2 hq)
    obtain ⟨hfirst, heq⟩ | ⟨_, heq⟩ := s.eligibleFrom_cons seen first rest
    · rw [heq, List.find?_cons_of_neg (hleast 0 i.succ_pos first hfirst), hlater]
    · rw [heq, hlater]

/-- A dispatch can be taken: the field transmitter is IDLE and a transaction place is free (R95). -/
theorem State.eligible_eq (s : State) : s.eligible
    = if s.entries.length < 16 ∧ s.fieldTx = none then s.eligibleFrom [] s.held else [] := by
  simp [State.eligible, Config.entryPlaces, and_comm]

theorem State.eligibleAt_iff {s : State} {i : Nat} {r : HeldReq} :
    s.eligibleAt i r ↔ s.FirstFor [] s.held i r ∧ s.entries.length < 16 ∧ s.fieldTx = none := by
  simp only [State.eligibleAt, State.FirstFor, List.not_mem_nil, not_false_eq_true, true_and, and_assoc]

theorem State.mem_eligible {s : State} {r : HeldReq} : r ∈ s.eligible ↔ ∃ i, s.eligibleAt i r := by
  simp only [State.eligibleAt_iff, exists_and_right, ← State.mem_eligibleFrom, State.eligible_eq]
  split <;> simp_all

/-- The oldest eligible request that a search accepts. -/
theorem State.find?_eligible {s : State} {accepts : HeldReq → Bool} {i : Nat} {r : HeldReq}
    (hr : s.eligibleAt i r) (hacc : accepts r = true)
    (hleast : ∀ j < i, ∀ q, s.eligibleAt j q → ¬accepts q = true) :
    s.eligible.find? accepts = some r := by
  obtain ⟨hfirst, hfree⟩ := State.eligibleAt_iff.1 hr
  rw [State.eligible_eq, if_pos hfree]
  exact State.find?_eligibleFrom hfirst hacc fun j hj q hq =>
    hleast j hj q (State.eligibleAt_iff.2 ⟨hq, hfree⟩)

/-! ### The pick (R97, R98) -/

theorem State.arbiter_of_none {s : State} (h : ∀ i r, ¬s.eligibleAt i r) : s.arbiter = none := by
  have hnil : s.eligible = [] :=
    List.eq_nil_iff_forall_not_mem.2 fun r hr => (State.mem_eligible.1 hr).elim fun i => h i r
  simp [State.arbiter, State.sharePick, hnil]

/-- With no URGENT request eligible the pick is by credit (R98). -/
theorem State.arbiter_of_not_urgent {s : State} (h : ∀ i r, s.eligibleAt i r → r.urgent = false) :
    s.arbiter = (s.sharePick s.eligible).map fun r => ⟨r, true⟩ := by
  have hnone : s.eligible.find? (·.urgent) = none := by
    refine List.find?_eq_none.2 fun r hr => ?_
    obtain ⟨i, hi⟩ := State.mem_eligible.1 hr
    simp [h i r hi]
  rw [State.arbiter, hnone]

/-- The port served is the one with more credits, and on equal credits the one not served last (R98). -/
theorem State.sharePort_eq {s : State} {p : Port} (h : s.credits.get p.other < s.credits.get p
    ∨ s.credits.get p = s.credits.get p.other ∧ s.lastShare = p.other) : s.sharePort = p := by
  unfold State.sharePort
  obtain hmore | ⟨hequal, hlast⟩ := h
  · cases p <;> simp only [PerPort.get, Port.other] at hmore <;> simp [hmore, hmore.not_gt]
  · cases p <;> simp only [PerPort.get, Port.other] at hequal <;> simp [hequal, hlast]

/-- A port is served when the other has no candidate, or when it comes first of the two (R98). -/
theorem State.sharePick_of_port {s : State} {es : List HeldReq} {p : Port} {r : HeldReq}
    (hr : es.find? (·.port = p) = some r)
    (hserved : es.find? (·.port = p.other) = none ∨ s.sharePort = p) : s.sharePick es = some r := by
  unfold State.sharePick
  cases p with
  | a =>
    cases hb : es.find? (·.port = .b) with
    | none => simp only [hr]
    | some rb =>
      obtain hnone | hport := hserved
      · cases hb.symm.trans hnone
      · simp only [hr, hport]
  | b =>
    cases ha : es.find? (·.port = .a) with
    | none => exact hr
    | some ra =>
      obtain hnone | hport := hserved
      · cases ha.symm.trans hnone
      · simp only [hr, hport]

/-- A share pick is one of the requests it is made among. -/
theorem State.mem_of_sharePick {s : State} {es : List HeldReq} {r : HeldReq}
    (h : s.sharePick es = some r) : r ∈ es := by
  unfold State.sharePick at h
  split at h
  case h_1 ra rb ha hb =>
    cases hport : s.sharePort <;> rw [hport] at h <;> cases h
    · exact List.mem_of_find?_eq_some ha
    · exact List.mem_of_find?_eq_some hb
  case h_2 ra ha _ =>
    cases h
    exact List.mem_of_find?_eq_some ha
  case h_3 => exact List.mem_of_find?_eq_some h

/-- The pick of the arbiter is one of the eligible requests. -/
theorem State.mem_eligible_of_arbiter {s : State} {pick : Pick} (h : s.arbiter = some pick) :
    pick.req ∈ s.eligible := by
  unfold State.arbiter at h
  split at h
  case h_1 r hr =>
    cases h
    exact List.mem_of_find?_eq_some hr
  case h_2 =>
    obtain ⟨r, hr, rfl⟩ := Option.map_eq_some_iff.1 h
    exact State.mem_of_sharePick hr

/-- A pick is a held request, and a transaction place is free for it. -/
theorem State.held_of_arbiter {s : State} {pick : Pick} (h : s.arbiter = some pick) :
    pick.req ∈ s.held ∧ s.entries.length < 16 := by
  obtain ⟨i, hget, _, _, hfree, _⟩ := State.mem_eligible.1 (State.mem_eligible_of_arbiter h)
  exact ⟨List.mem_of_getElem? hget, hfree⟩

/-- Settles O22: the arbiter searches the eligible requests by age, first for an URGENT one, then by port. -/
theorem arbiterPicks : Obligations.ArbiterPicks := by
  intro s hrun first
  refine ⟨fun hnone => ?none, fun i r ⟨hr, hurgent, hleast⟩ => ?urgent,
    fun hcalm p i r ⟨hr, hport, hleast⟩ hserved => ?share⟩
  case none =>
    simp only [exec, execDispatch, State.whenRunning_running hrun, State.arbiter_of_none hnone]
  case urgent =>
    have hfind : s.eligible.find? (·.urgent) = some r := State.find?_eligible hr hurgent hleast
    rw [State.arbiter, hfind]
  case share =>
    have hfind : s.eligible.find? (·.port = p) = some r :=
      State.find?_eligible hr (by simpa using hport) (by simpa using hleast)
    have hport' : s.eligible.find? (·.port = p.other) = none ∨ s.sharePort = p := by
      refine hserved.imp (fun honly => List.find?_eq_none.2 fun q hq => ?_) State.sharePort_eq
      obtain ⟨j, hj⟩ := State.mem_eligible.1 hq
      simp [honly j q hj, (Port.other_ne p).symm]
    rw [State.arbiter_of_not_urgent hcalm, State.sharePick_of_port hfind hport', Option.map_some]

/-! ### The dispatch (R96, R99, R109, R110) -/

theorem State.withStation_of_fieldStation (s : State) {n : Byte} (h : isFieldStation n = true)
    (r : Station) :
    s.withStation n.toNat r = { s with stations := s.stations.setIfInBounds (n.toNat - 1) r } := by
  obtain ⟨hlow, _⟩ := (isFieldStation_iff n).1 h
  obtain ⟨k, hk⟩ := Nat.exists_eq_add_of_le' hlow
  rw [hk]
  rfl

/-- The candidates for a relay tag are different bytes (R109). -/
theorem tagCandidates_nodup (t : Byte) : ((List.range 16).map fun j => t + BitVec.ofNat 8 j).Nodup := by
  refine List.Nodup.map_on (fun i hi j hj h => ?_) List.nodup_range
  rw [List.mem_range] at hi hj
  have hnat := congrArg BitVec.toNat (BitVec.add_right_inj t |>.1 h)
  simp only [BitVec.toNat_ofNat] at hnat
  omega

/-- With fewer than 16 transactions one of 16 candidates is free (R109). -/
theorem allocTag_free {entries : List Entry} (t : Byte) (h : entries.length < 16) : ∃ k < 16,
    allocTag entries 16 t = t + BitVec.ofNat 8 k
      ∧ (∀ e ∈ entries, e.relayTag ≠ t + BitVec.ofNat 8 k)
      ∧ ∀ j < k, ∃ e ∈ entries, e.relayTag = t + BitVec.ofNat 8 j := by
  obtain ⟨k, hk, htag, htaken, hfree⟩ := allocTag_cases entries 16 t
  have hlt : k < 16 := by
    by_contra hge
    obtain rfl : k = 16 := by omega
    have hsub : ((List.range 16).map fun j => t + BitVec.ofNat 8 j) ⊆ entries.map Entry.relayTag := by
      intro tag hmem
      obtain ⟨j, hj, rfl⟩ := List.mem_map.1 hmem
      exact List.mem_map.2 (htaken j (List.mem_range.1 hj))
    have hle := ((tagCandidates_nodup t).subperm hsub).length_le
    simp only [List.length_map, List.length_range] at hle
    omega
  exact ⟨k, hlt, htag, hfree hlt, htaken⟩

/-- The credits after a share pick of port `p`: one less, and reloaded when none is left (R98, R99). -/
def State.creditsAfter (s : State) (p : Port) : PerPort Nat :=
  let c := s.credits.set p (s.credits.get p - 1)
  if c = ⟨0, 0⟩ then s.settings.share else c

theorem State.shared_eq (s : State) (p : Port) :
    s.shared p = { s with credits := s.creditsAfter p, lastShare := p } := by
  have hzero (c : PerPort Nat) : (decide (c.a = 0) && decide (c.b = 0)) = decide (c = ⟨0, 0⟩) := by
    rw [Bool.eq_iff_iff]
    cases c
    simp
  simp only [State.shared, State.creditsAfter, hzero, decide_eq_true_eq]

/-- A dispatch takes the arbiter's pick, and counts a share pick against the credits (R96, R98). -/
theorem dispatch_of_pick {s : State} {r : HeldReq} {share : Bool} (hrun : s.phase = .running)
    (hpick : s.arbiter = some ⟨r, share⟩) :
    exec .dispatch s
      = .next (if share then (s.dispatchReq r).shared r.port else s.dispatchReq r) := by
  simp only [exec, execDispatch, State.whenRunning_running hrun, hpick]

/-- Settles O23: the pick leaves the hold queue and is a transaction under the first free tag. -/
theorem dispatchMakesATransaction : Obligations.DispatchMakesATransaction := by
  intro s r share hrun hpick hstation
  obtain ⟨_, hroom⟩ := State.held_of_arbiter hpick
  obtain ⟨k, hk, htag, hfree, htaken⟩ := allocTag_free s.tagCounter hroom
  refine ⟨k, hk, _, rfl, hfree, htaken, if share then s.creditsAfter r.port else s.credits, rfl, ?_⟩
  rw [dispatch_of_pick hrun hpick, State.shared_eq, State.dispatchReq,
    State.withStation_of_fieldStation s hstation, htag]
  cases share <;> rfl

/-! ### The purge on entering ISOLATED (R102, R105) -/

/-- A run of answers that stands alone is placed, an empty run too (R102). -/
theorem State.inSomeOrder_runClaim (s : State) (p : Port) (run : List Telegram) :
    s.inSomeOrder (runClaim p run) = s.answer p run := by
  cases run with
  | nil => exact (s.answer_nil p).symm
  | cons t rest => rfl

/-- A purge drops its selection and answers it, one run a port (R102). -/
theorem State.purge_eq (s : State) (sel : HeldReq → Bool) (st : RelayStatus) :
    s.purge sel st = State.answer .b (purgeRun s.held sel st .b)
      (State.answer .a (purgeRun s.held sel st .a) (s.dropHeld sel)) := by
  simp only [State.purge, State.inSomeOrder_runClaim]

/-- Settles O29: the announcement is taken, and the purge selects every held request. -/
theorem isolatedPurgeAnswersEveryHeldRequest : Obligations.IsolatedPurgeAnswersEveryHeldRequest := by
  intro s n hrun hpurges run
  have hdrop (u : State) : u.dropHeld (fun _ => true) = { u with held := [] } := by
    simp [State.dropHeld]
  have hrunOf (p : Port) : purgeRun s.held (fun _ => true) .isolated p = run p := by
    simp only [purgeRun, Bool.true_and]
    rfl
  simp only [exec, execIsolatedPurge, State.whenRunning_running hrun, hpurges, State.purge_eq, hdrop, hrunOf]

end Sys2Proof.Machine

/-! ## What each command can change of the hold queue, the transactions and the lease groups

The bounds of the hold queue (R93) and the leases of the held requests (R100) are both about one part of the
state. What a command can leave of that part is said once for every command (`Moves`, `exec_moves`): requests
and transactions leave, the screening unit takes a request in, or the dispatch unit makes one a transaction.
Both invariants follow from these three cases. -/

namespace Sys2Proof.Machine

/-! ### The traffic of a state -/

/-- The held requests, the triples of the transactions (R61) and the lease groups. -/
@[ext] structure Traffic where
  held : List HeldReq
  triples : List (Port × Byte × Byte)
  leases : Vector (Option Lease) 16

/-- The traffic of a state. -/
def State.traffic (s : State) : Traffic where
  held := s.held
  triples := s.entries.map Entry.triple
  leases := s.leases

theorem State.traffic_eq_iff {s : State} {g : Traffic} :
    s.traffic = g ↔ s.held = g.held ∧ s.entries.map Entry.triple = g.triples ∧ s.leases = g.leases :=
  Traffic.ext_iff

/-- Which port holds a group depends on the lease groups alone (R77). -/
theorem State.holds_congr {s t : State} (h : t.leases = s.leases) (p : Port) (g : Nat) :
    t.holds p g = s.holds p g := by
  have hlease : t.lease g = s.lease g := by cases g <;> simp [State.lease, h]
  rw [State.holds, State.holds, hlease]

section Traffic
variable (s : State)

@[simp] theorem State.traffic_withStation (n : Nat) (r : Station) :
    (s.withStation n r).traffic = s.traffic := by cases n <;> rfl

@[simp] theorem State.traffic_withMeter (n : Nat) (m : Meter) :
    (s.withMeter n m).traffic = s.traffic := by cases n <;> rfl

@[simp] theorem State.traffic_takeToken (n : Nat) : (s.takeToken n).traffic = s.traffic := by
  simp [State.traffic]

@[simp] theorem State.traffic_answer (p : Port) (run : List Telegram) :
    (s.answer p run).traffic = s.traffic := rfl

@[simp] theorem State.traffic_countField (k : FieldCounter) : (s.countField k).traffic = s.traffic := rfl

@[simp] theorem State.traffic_countFraming (l : Line) : (s.countFraming l).traffic = s.traffic := by
  cases l <;> rfl

@[simp] theorem State.traffic_offerNtc (p : Port) : (s.offerNtc p).traffic = s.traffic := by
  simp [State.traffic]

@[simp] theorem State.traffic_request (f : NoticeFlag) (d : Detail) (p : Port) :
    (s.request f d p).traffic = s.traffic := by
  simp [State.traffic]

@[simp] theorem State.traffic_requestBoth (f : NoticeFlag) (d : Detail) :
    (s.requestBoth f d).traffic = s.traffic := by simp [State.requestBoth]

@[simp] theorem State.traffic_maskChange (p : Port) : (s.maskChange p).traffic = s.traffic := by
  simp [State.traffic]

@[simp] theorem State.traffic_maskChangeIf (list : List ListItem) (p : Port) :
    (s.maskChangeIf list p).traffic = s.traffic := by
  unfold State.maskChangeIf
  split
  · exact s.traffic_maskChange p
  · rfl

@[simp] theorem State.traffic_supervise (p : Port) : (s.supervise p).traffic = s.traffic := by
  obtain ⟨_, _, _, h⟩ := s.supervise_frame p
  rw [h]
  rfl

/-- Claims that leave the traffic as it was leave it so in every order (R128). -/
theorem State.traffic_inSomeOrder {claims : List (State → State)}
    (h : ∀ claim ∈ claims, ∀ u : State, (claim u).traffic = u.traffic) :
    (s.inSomeOrder claims).traffic = s.traffic :=
  State.inSomeOrder_keeps (P := fun u => u.traffic = s.traffic) (fun _ => rfl)
    fun claim hc u hu => (h claim hc u).trans hu

/-- The claim of a run is the placing of its answers. -/
theorem eq_answer_of_mem_runClaim {p : Port} {run : List Telegram} {claim : State → State}
    (h : claim ∈ runClaim p run) : claim = State.answer p run := by
  unfold runClaim at h
  split at h
  · cases h
  · exact List.mem_singleton.1 h

@[simp] theorem State.traffic_runClaim (p : Port) (run : List Telegram) :
    (s.inSomeOrder (runClaim p run)).traffic = s.traffic := by
  rw [State.inSomeOrder_runClaim, State.traffic_answer]

/-- A run of answers beside one other claim that leaves the traffic as it was. -/
theorem State.traffic_runClaim_and {claim : State → State}
    (h : ∀ u : State, (claim u).traffic = u.traffic) (p : Port) (run : List Telegram) :
    (s.inSomeOrder (runClaim p run ++ [claim])).traffic = s.traffic := by
  refine s.traffic_inSomeOrder fun c hc u => ?_
  rcases List.mem_append.1 hc with hrun | hone
  · rw [eq_answer_of_mem_runClaim hrun, State.traffic_answer]
  · obtain rfl := List.mem_singleton.1 hone
    exact h u

@[simp] theorem State.traffic_purge (sel : HeldReq → Bool) (st : RelayStatus) :
    (s.purge sel st).traffic = (s.dropHeld sel).traffic := by simp [State.purge]

/-- The claims of a deadline are answers and a notice (R116, R117, R104). -/
@[simp] theorem State.traffic_deadlineClaims (e : Entry) (held : List HeldReq) (quarantined : Bool)
    (p : Port) : (s.inSomeOrder (deadlineClaims e held quarantined p)).traffic = s.traffic := by
  refine s.traffic_inSomeOrder fun claim hclaim u => ?_
  have hrun {run : List Telegram} (hmem : claim ∈ runClaim p run) : (claim u).traffic = u.traffic := by
    rw [eq_answer_of_mem_runClaim hmem, State.traffic_answer]
  unfold deadlineClaims at hclaim
  rcases List.mem_append.1 hclaim with htimeout | hrest
  · exact hrun htimeout
  · split at hrest
    · rcases List.mem_append.1 hrest with hpurge | hnotice
      · exact hrun hpurge
      · obtain rfl := List.mem_singleton.1 hnotice
        exact u.traffic_request _ _ p
    · cases hrest

@[simp] theorem State.traffic_offerTo (evt : Telegram) (route : Route) (p : Port) :
    (s.offerTo evt route p).traffic = s.traffic := by
  unfold State.offerTo State.offerEvt
  split
  · dsimp only
    split
    · rfl
    · rw [State.traffic_request]
      rfl
  · rfl

@[simp] theorem State.traffic_routeEvt (evt : Telegram) : (s.routeEvt evt).traffic = s.traffic := by
  have hcount : (s.countRoute evt).traffic = s.traffic := by
    unfold State.countRoute
    split
    · rfl
    · split <;> rfl
  simp [State.routeEvt, hcount]

@[simp] theorem State.traffic_signOfLife (t : Telegram) : (s.signOfLife t).traffic = s.traffic := by
  unfold State.signOfLife
  split <;> simp

@[simp] theorem State.traffic_unmatchedRsp (rsp : Telegram) : (s.unmatchedRsp rsp).traffic = s.traffic := by
  unfold State.unmatchedRsp
  dsimp only
  split <;> simp

@[simp] theorem State.traffic_storeReport (op : StoreOp) (st : MgtStatus) (data : List Byte)
    (f : NoticeFlag) : (s.storeReport op st data f).traffic = s.traffic := by
  have hclaims := s.traffic_inSomeOrder
    (claims := [State.answer op.port [mga op.source op.tag op.kind.opCode st data],
      State.request f .nothing op.port])
    (by simp)
  rw [State.storeReport, State.traffic_request, hclaims]

theorem State.traffic_storeEffect (kind : StoreKind) : (s.storeEffect kind).traffic = s.traffic := by
  cases kind <;> rfl

/-- An MGT that is delivered stands in a slot or is answered (R142). -/
@[simp] theorem State.traffic_offerMgt (m : Mgt) : (s.offerMgt m).traffic = s.traffic := by
  rw [State.offerMgt, State.touchSession_eq]
  split <;> rfl

@[simp] theorem State.traffic_deliver (p : Port) (t : Telegram) : (s.deliver p t).traffic = s.traffic := by
  unfold State.deliver
  split
  case h_1 => split <;> rfl
  case h_2 =>
    split
    · exact State.traffic_offerMgt _ _
    · rfl
  all_goals rfl

end Traffic

/-! ### What a screening admits -/

/-- What checks 1, 8 and 11 ask of a request that is admitted (R61, R65, R68). -/
structure State.Admits (s : State) (r : HeldReq) : Prop where
  fresh : r.triple ∉ s.held.map HeldReq.triple ++ s.entries.map Entry.triple
  leased : r.op ≠ .read → r.group ≠ 0 → s.holds r.port r.group = true
  total : s.held.length < 40
  perPort : (s.held.filter fun q => q.port = r.port).length < 24

/-- Check 1 compares the triple with those held and in transaction (R61). -/
theorem State.isDuplicate_iff_mem (s : State) (p : Port) (t : Telegram) :
    s.isDuplicate p t = true
      ↔ (p, t.source, t.tag) ∈ s.held.map HeldReq.triple ++ s.entries.map Entry.triple := by
  simp [State.isDuplicate_iff, State.repeats, HeldReq.triple, Entry.triple]

/-- Check 8 passes when the op needs no lease, the rule names no group, or the port holds it (R65). -/
theorem State.holds_of_leaseCheck {s : State} {p : Port} {op : Op} {g : Nat}
    (h : s.leaseCheck p op g = none) (hop : op ≠ .read) (hg : g ≠ 0) : s.holds p g = true := by
  have hneeds : (op.needsLease && g != 0) = true := by simp [(Op.needsLease_iff op).2 hop, hg]
  rw [State.leaseCheck, if_pos hneeds] at h
  by_contra hno
  rw [if_neg hno] at h
  split at h <;> cases h

/-- Check 11 passes while there is room for the request (R68). -/
theorem State.room_of_not_queueFull {s : State} {p : Port} (h : ¬s.queueFull p = true) :
    s.held.length < 40 ∧ (s.held.filter fun r => r.port = p).length < 24 := by
  simpa [State.queueFull, Config.heldPlaces, Config.heldPlacesPerPort] using h

/-- An admission under a rule has passed checks 8 and 11, and holds what Table 4-3 says. -/
theorem State.screenUnder_admitted {s : State} {p : Port} {t : Telegram} {op : Op} {e : RuleEntry}
    {r : HeldReq} {meter : Nat} (h : s.screenUnder p t op e = .admitted r meter) :
    r = heldOf p t op e ∧ s.leaseCheck p op e.group = none ∧ ¬s.queueFull p = true := by
  unfold State.screenUnder at h
  split at h
  · cases h
  split at h
  · cases h
  rename_i hlease
  split at h
  · cases h
  split at h
  · cases h
  split at h
  · cases h
  rename_i hroom
  split at h
  · cases h
  · cases h
    exact ⟨rfl, hlease, hroom⟩

/-- An admission is the end of check 1 and of checks 7 to 12 under some rule (R60). -/
theorem State.screen_admitted {s : State} {p : Port} {t : Telegram} {r : HeldReq} {meter : Nat}
    (h : s.screen p t = .admitted r meter) :
    ¬s.isDuplicate p t = true ∧ ∃ op e, s.screenUnder p t op e = .admitted r meter := by
  unfold State.screen at h
  split at h
  · cases h
  rename_i hnew
  split at h
  · cases h
  split at h
  · cases h
  split at h
  · cases h
  split at h
  · cases h
  split at h
  · cases h
  · exact ⟨hnew, _, _, h⟩

theorem State.screen_admits {s : State} {p : Port} {t : Telegram} {r : HeldReq} {meter : Nat}
    (h : s.screen p t = .admitted r meter) : s.Admits r := by
  obtain ⟨hnew, op, e, hunder⟩ := State.screen_admitted h
  obtain ⟨rfl, hlease, hroom⟩ := State.screenUnder_admitted hunder
  obtain ⟨htotal, hport⟩ := State.room_of_not_queueFull hroom
  exact ⟨mt (s.isDuplicate_iff_mem p t).2 hnew, State.holds_of_leaseCheck hlease, htotal, hport⟩

/-! ### What a command can change -/

/-- What a command can leave of the traffic of `s`. -/
inductive Moves (s t : State) : Prop
  | left (hheld : t.held.Sublist s.held)
      (htriples : (t.entries.map Entry.triple).Sublist (s.entries.map Entry.triple))
      (hleases : ∀ r ∈ t.held, r.op ≠ .read →
        s.holds r.port r.group = true → t.holds r.port r.group = true) : Moves s t
  | admitted (r : HeldReq) (hr : s.Admits r)
      (h : t.traffic = { s.traffic with held := s.held ++ [r] }) : Moves s t
  | dispatched (r : HeldReq) (hr : r ∈ s.held)
      (h : t.traffic = { s.traffic with
        held := s.held.erase r, triples := s.entries.map Entry.triple ++ [r.triple] }) : Moves s t

section Frames
variable {s t : State}

/-- Requests and transactions that leave, under the same leases. -/
theorem Moves.of_leases (hheld : t.held.Sublist s.held)
    (htriples : (t.entries.map Entry.triple).Sublist (s.entries.map Entry.triple))
    (hleases : t.leases = s.leases) : Moves s t :=
  .left hheld htriples fun r _ _ hold => (State.holds_congr hleases r.port r.group).trans hold

/-- The traffic is as it was. -/
theorem Moves.nothing (h : t.traffic = s.traffic) : Moves s t := by
  obtain ⟨hheld, htriples, hleases⟩ := State.traffic_eq_iff.1 h
  exact .of_leases (hheld ▸ .refl _) (htriples ▸ .refl _) hleases

/-- No request is held any more. -/
theorem Moves.emptied (hheld : t.held = [])
    (htriples : (t.entries.map Entry.triple).Sublist (s.entries.map Entry.triple)) : Moves s t :=
  .left (hheld ▸ List.nil_sublist _) htriples (by rw [hheld]; nofun)

/-- What a command leaves is known by its traffic. -/
theorem Moves.congr {u : State} (h : Moves s u) (ht : t.traffic = u.traffic) : Moves s t := by
  obtain ⟨hheld, htriples, hleases⟩ := State.traffic_eq_iff.1 ht
  replace hheld : t.held = u.held := hheld
  replace htriples : t.entries.map Entry.triple = u.entries.map Entry.triple := htriples
  cases h with
  | left hheld' htriples' hleases' =>
    refine .left (hheld ▸ hheld') (htriples ▸ htriples') fun r hr hop hold => ?_
    rw [State.holds_congr hleases]
    exact hleases' r (hheld ▸ hr) hop hold
  | admitted r hr h => exact .admitted r hr (ht.trans h)
  | dispatched r hr h => exact .dispatched r hr (ht.trans h)

theorem Moves.of_whenRunning {f : State → State} (h : s.whenRunning f = .next t) (hf : Moves s (f s)) :
    Moves s t := by
  rcases State.whenRunning_cases h with rfl | rfl
  · exact hf
  · exact .nothing rfl

theorem Moves.of_whenMgt {takes : Byte → Bool} {f : Mgt → State → State} (h : s.whenMgt takes f = .next t)
    (hf : ∀ m, Moves s (f m s)) : Moves s t := by
  rcases State.whenMgt_cases h with ⟨m, _, _, _, _, _, rfl⟩ | rfl
  · exact hf m
  · exact .nothing rfl

theorem Moves.of_whenOp {code : Byte} {len : Nat} {f : Mgt → State → State}
    (h : s.whenOp code len f = .next t) (hf : ∀ m, Moves s (f m s)) : Moves s t := by
  rcases State.whenOp_cases h with ⟨m, _, _, _, _, _, ⟨_, rfl⟩ | rfl⟩ | rfl
  · exact hf m
  · exact .nothing rfl
  · exact .nothing rfl

theorem Moves.of_whenOwner (m : Mgt) {f : Session → State} (hf : ∀ x, Moves s (f x)) :
    Moves s (s.whenOwner m f) := by
  rcases s.whenOwner_cases m f with ⟨_, h⟩ | ⟨_, _, _, h⟩ | ⟨x, _, _, h⟩
  · rw [h]; exact .nothing rfl
  · rw [h]; exact .nothing rfl
  · rw [h]; exact hf x

theorem Moves.of_whenRestarting {due : RestartRun → Bool} {f : RestartRun → State → State}
    (h : s.whenRestarting due f = .next t) (hf : ∀ r, Moves s (f r s)) : Moves s t := by
  rcases State.whenRestarting_cases h with ⟨r, _, _, _, rfl⟩ | rfl
  · exact hf r
  · exact .nothing rfl

end Frames

section Commands
variable {s t : State}

/-! ### Supply, RESET_N and the load -/

theorem powerOn_moves (h : execPowerOn s = .next t) : Moves s t := by
  simp only [execPowerOn, Host.Outcome.next.injEq] at h
  subst h
  refine .nothing ?_
  split
  · rfl
  · split <;> rfl

theorem powerFail_moves (h : execPowerFail s = .next t) : Moves s t := by
  simp only [execPowerFail, Host.Outcome.next.injEq] at h
  subst h
  split
  · exact .emptied rfl (List.nil_sublist _)
  · exact .nothing rfl

theorem resetNFall_moves (h : execResetNFall s = .next t) : Moves s t := by
  simp only [execResetNFall, Host.Outcome.next.injEq] at h
  subst h
  split
  · exact .nothing rfl
  · split
    · exact .emptied rfl (List.nil_sublist _)
    · exact .nothing rfl

theorem pinReset_moves (h : execPinReset s = .next t) : Moves s t := by
  simp only [execPinReset, Host.Outcome.next.injEq] at h
  subst h
  refine .nothing ?_
  split
  · rfl
  · split <;> rfl

theorem startUpLoadEnd_moves (h : execStartUpLoadEnd s = .next t) : Moves s t := by
  simp only [execStartUpLoadEnd, Host.Outcome.next.injEq] at h
  subst h
  split
  case h_1 cause _ =>
    have hloaded : Moves s (s.loaded cause s.store.select.image) := by
      cases cause <;> exact .emptied rfl (List.nil_sublist _)
    exact hloaded.congr (State.traffic_requestBoth _ _ _)
  all_goals exact .nothing rfl

/-! ### Links -/

theorem framingError_moves {l : Line} {x : Character} (h : execFramingError l x s = .next t) :
    Moves s t := by
  refine .of_whenRunning h (.nothing ?_)
  split
  · exact State.traffic_countFraming _ l
  all_goals rfl

theorem characterReceived_moves {l : Line} {x : Character} (h : execCharacterReceived l x s = .next t) :
    Moves s t := by
  refine .of_whenRunning h (.nothing ?_)
  split <;> rfl

theorem frameGapPause_moves {l : Line} (h : execFrameGapPause l s = .next t) : Moves s t := by
  refine .of_whenRunning h (.nothing ?_)
  dsimp only
  split
  · rfl
  all_goals exact State.traffic_countFraming _ l

theorem controlTelegram_moves {p : Port} {last : Byte} (h : execControlTelegram p last s = .next t) :
    Moves s t := by
  refine .of_whenRunning h (.nothing ?_)
  split
  · rw [State.takeTelegram, State.traffic_deliver, State.traffic_supervise]
    rfl
  all_goals rfl

theorem silenceTimerExpiry_moves {x : SilenceStep} (h : execSilenceTimerExpiry x s = .next t) :
    Moves s t := by
  refine .of_whenRunning h (.nothing ?_)
  cases x with
  | expiry p => simp only [State.fallSilent]; split <;> rfl
  | notice p =>
    simp only [State.notePeerDown]
    split
    · rfl
    · exact State.traffic_request _ _ _ _

/-- The answer to a transaction takes its entry out of the table, and no other answer does (R113, R114). -/
theorem Moves.of_takeRsp {u : State} (hu : u.traffic = s.traffic) (rsp : Telegram) :
    Moves s (u.takeRsp rsp) := by
  unfold State.takeRsp
  split
  case h_1 e _ =>
    obtain ⟨hheld, htriples, hleases⟩ := State.traffic_eq_iff.1 hu
    replace htriples : u.entries.map Entry.triple = s.entries.map Entry.triple := htriples
    have hleft : Moves s { u with entries := u.entries.erase e } :=
      .of_leases (hheld ▸ .refl _) (htriples ▸ List.erase_sublist.map _) hleases
    exact hleft.congr (State.traffic_withStation _ _ _)
  case h_2 => exact .nothing ((State.traffic_unmatchedRsp _ _).trans hu)

theorem fieldTelegram_moves {last : Byte} (h : execFieldTelegram last s = .next t) : Moves s t := by
  refine .of_whenRunning h ?_
  split
  case h_1 telegram _ =>
    have hheard : (((s.withAssembly .field (.hunt false)).countField .telegramsIn).signOfLife
        telegram).traffic = s.traffic := State.traffic_signOfLife _ _
    unfold State.takeFieldTelegram
    dsimp only
    split
    · split
      · exact .of_takeRsp hheard telegram
      · exact .nothing hheard
    · exact .nothing ((State.traffic_routeEvt _ _).trans hheard)
    all_goals exact .nothing hheard
  all_goals exact .nothing rfl

/-! ### Screening and the dispatch of requests -/

theorem screening_moves {x : ScreeningStep} (h : execScreening x s = .next t) : Moves s t := by
  refine .of_whenRunning h ?_
  cases x with
  | judge p =>
    dsimp only [State.judgeFirst]
    split
    · exact .nothing rfl
    case h_2 telegram rest _ =>
      cases hverdict : s.screen p telegram with
      | absorbed => exact .nothing rfl
      | refused st => exact .nothing rfl
      | admitted r meter =>
        refine .admitted r (State.screen_admits hverdict) ?_
        dsimp only [State.conclude, State.admission]
        rw [State.takeToken_eq]
        rfl
  | place p => exact .nothing rfl
  | release p => exact .nothing rfl

theorem dispatch_moves (h : execDispatch s = .next t) : Moves s t := by
  refine .of_whenRunning h ?_
  split
  · exact .nothing rfl
  case h_2 pick hpick =>
    obtain ⟨hheld, _⟩ := State.held_of_arbiter hpick
    have hreq : Moves s (s.dispatchReq pick.req) := by
      refine .dispatched pick.req hheld (State.traffic_eq_iff.2 ⟨rfl, ?_, State.withStation_leases _ _ _⟩)
      exact List.map_append
    split
    · exact hreq.congr rfl
    · exact hreq

theorem hitCountRaise_moves {station : Byte} {block : Nat} (h : execHitCountRaise station block s = .next t) :
    Moves s t := by
  refine .of_whenRunning h (.nothing ?_)
  dsimp only
  split <;> rfl

theorem meterRefill_moves {n : Nat} (h : execMeterRefill n s = .next t) : Moves s t := by
  refine .of_whenRunning h (.nothing ?_)
  split
  · rfl
  · split
    · rfl
    · exact State.traffic_withMeter _ _ _

/-- A purge takes its selection out of the hold queue, and nothing else of the traffic (R102). -/
theorem Moves.of_dropHeld (s : State) (sel : HeldReq → Bool) : Moves s (s.dropHeld sel) :=
  .of_leases List.filter_sublist (.refl _) rfl

theorem isolatedPurge_moves (h : execIsolatedPurge s = .next t) : Moves s t := by
  refine .of_whenRunning h ?_
  split
  · exact .nothing rfl
  · exact (Moves.of_dropHeld s fun _ => true).congr (State.traffic_purge _ _ _)

/-! ### Transactions and stations -/

theorem fieldTransmissionEnd_moves (h : execFieldTransmissionEnd s = .next t) : Moves s t := by
  refine .of_whenRunning h (.nothing ?_)
  split
  case h_1 a _ =>
    have hsent : Entry.triple ∘ Entry.sent a = Entry.triple := by
      funext e
      unfold Function.comp Entry.sent
      split <;> rfl
    exact State.traffic_eq_iff.2 ⟨rfl, by rw [List.map_map, hsent]; rfl, rfl⟩
  all_goals rfl

/-- A deadline ends its transaction, and a quarantine the held requests for its station (R116, R104). -/
theorem deadline_moves {tag : Byte} (h : execDeadline tag s = .next t) : Moves s t := by
  refine .of_whenRunning h ?_
  split
  · exact .nothing rfl
  · refine Moves.congr ?_ ((State.traffic_deadlineClaims _ _ _ _ _).trans
      (State.traffic_deadlineClaims _ _ _ _ _))
    refine .of_leases ?_ (List.erase_sublist.map _) (State.withStation_leases _ _ _)
    dsimp only
    split
    · exact List.filter_sublist
    · exact .refl _

theorem holdTimerExpiry_moves {n : Nat} (h : execHoldTimerExpiry n s = .next t) : Moves s t := by
  refine .of_whenRunning h (.nothing ?_)
  split
  · rfl
  · rw [State.traffic_requestBoth, State.traffic_withStation]
    rfl

/-! ### The lease groups -/

/-- A group that is free or its port's own is granted to the port: no other request loses its lease (R79 to
R81). -/
theorem Moves.of_grant {p : Port} {g : Nat} (hg : ∀ l, s.lease g = some l → l.holder = p) (granted : Nat)
    (m : Mgt) (data : List Byte) : Moves s ((s.grant p g granted).finish m .done data) := by
  have hgrant : Moves s (s.grant p g granted) := by
    refine .left (by simp [State.grant]) (by simp [State.grant]) fun r _ _ hold => ?_
    obtain ⟨l, hl, hholder⟩ := State.holds_iff.1 hold
    rw [State.holds_iff, State.grant, State.lease_withLease]
    split
    case isTrue hsame => exact ⟨_, rfl, (hg l (hsame.1 ▸ hl)).symm.trans hholder⟩
    case isFalse => exact ⟨l, hl, hholder⟩
  exact hgrant.congr rfl

theorem leaseTake_moves (h : execLeaseTake s = .next t) : Moves s t := by
  refine .of_whenOp h fun m => ?_
  split
  · dsimp only
    split
    · exact .nothing rfl
    · split
      case h_1 l hl =>
        split
        case isTrue hown => exact .of_grant (fun l' hl' => by cases hl.symm.trans hl'; exact hown) _ _ _
        case isFalse => exact .nothing rfl
      case h_2 hfree => exact .of_grant (fun l' hl' => by cases hfree.symm.trans hl') _ _ _
  · exact .nothing rfl

theorem leaseRenew_moves (h : execLeaseRenew s = .next t) : Moves s t := by
  refine .of_whenOp h fun m => ?_
  split
  · split
    · exact .nothing rfl
    · split
      case h_1 l hl =>
        split
        case isTrue hown => exact .of_grant (fun l' hl' => by cases hl.symm.trans hl'; exact hown) _ _ _
        case isFalse => exact .nothing rfl
      case h_2 => exact .nothing rfl
  · exact .nothing rfl

/-- A loss of a group by its holder drops the requests that stood under it (R88). -/
theorem Moves.of_loseGroup {l : Lease} {g : Nat} (hl : s.lease g = some l) :
    Moves s (s.loseGroup l.holder g) := by
  refine .left ?_ (by simp [State.loseGroup]) fun r hr hop hold => ?_
  · rw [State.loseGroup, State.dropHeld_held, State.withLease_held]
    exact List.filter_sublist
  · obtain ⟨l', hl', hholder⟩ := State.holds_iff.1 hold
    have hother : r.group ≠ g := by
      rintro rfl
      obtain rfl : l = l' := Option.some.inj (hl.symm.trans hl')
      have hkept := (List.mem_filter.1 hr).2
      simp [(HeldReq.lostWith_iff _ _ r).2 ⟨hholder.symm, hop, rfl⟩] at hkept
    have hlease : (s.loseGroup l.holder g).lease r.group = (s.withLease g none).lease r.group := by
      cases r.group <;> rfl
    refine State.holds_iff.2 ⟨l', ?_, hholder⟩
    rw [hlease, State.lease_withLease, if_neg fun hsame => hother hsame.1, hl']

/-- A loss reads and changes the traffic alone. -/
theorem State.traffic_loseGroup {u s : State} (hu : u.traffic = s.traffic) (p : Port) (g : Nat) :
    (u.loseGroup p g).traffic = (s.loseGroup p g).traffic := by
  obtain ⟨hheld, htriples, hleases⟩ := State.traffic_eq_iff.1 hu
  cases g <;> simp_all [State.traffic, State.loseGroup, State.dropHeld, State.withLease]

theorem leaseRelease_moves (h : execLeaseRelease s = .next t) : Moves s t := by
  refine .of_whenOp h fun m => ?_
  split
  case h_1 g _ =>
    split
    · exact .nothing rfl
    · split
      case h_1 l hl =>
        split
        case isTrue hown =>
          refine (hown ▸ Moves.of_loseGroup hl : Moves s (s.loseGroup m.port g.toNat)).congr ?_
          rw [State.traffic_runClaim_and _ fun u => u.traffic_answer _ _]
          exact State.traffic_loseGroup (u := s.freeSlot) (s := s) rfl _ _
        case isFalse => exact .nothing rfl
      case h_2 => exact .nothing rfl
  case h_2 => exact .nothing rfl

theorem leaseExpiry_moves {g : Nat} (h : execLeaseExpiry g s = .next t) : Moves s t := by
  refine .of_whenRunning h ?_
  split
  · exact .nothing rfl
  case h_2 l hl =>
    refine (Moves.of_loseGroup hl).congr ?_
    rw [State.traffic_runClaim_and _ fun u => u.traffic_request _ _ _]
    exact State.traffic_loseGroup (u := s.reach l.expiry) (s := s) rfl _ _

/-- A loss of all groups of a port drops the requests that stood under them (R86, R88). -/
theorem Moves.of_loseAll (s : State) (p : Port) : Moves s (s.loseAll p) := by
  refine .left List.filter_sublist (.refl _) fun r hr hop hold => ?_
  obtain ⟨l, hl, hholder⟩ := State.holds_iff.1 hold
  have hkeeps : ¬s.holds p r.group = true := by
    intro hlost
    obtain ⟨l', hl', hp⟩ := State.holds_iff.1 hlost
    obtain rfl : l = l' := Option.some.inj (hl.symm.trans hl')
    have hkept := (List.mem_filter.1 hr).2
    simp [(HeldReq.lostWithAny_iff s p r).2 ⟨hholder.symm.trans hp, hop, hlost⟩] at hkept
  refine State.holds_iff.2 ⟨l, ?_, hholder⟩
  rw [State.lease_loseAll, if_neg hkeeps, hl]

theorem leaseReleaseOnLinkDown_moves {p : Port} (h : execLeaseReleaseOnLinkDown p s = .next t) :
    Moves s t := by
  refine .of_whenRunning h ?_
  split
  · exact .nothing rfl
  · dsimp only
    split
    · exact .nothing rfl
    · refine (Moves.of_loseAll s p).congr ?_
      rw [State.traffic_runClaim_and _ fun u => u.traffic_request _ _ _]
      rfl

/-! ### Output units, notices and the session -/

theorem portSendEnd_moves {p : Port} (h : execPortSendEnd p s = .next t) : Moves s t := by
  refine .of_whenRunning h (.nothing ?_)
  split <;> rfl

theorem noticeRepeatExpiry_moves {p : Port} (h : execNoticeRepeatExpiry p s = .next t) : Moves s t := by
  refine .of_whenRunning h (.nothing ?_)
  split
  · rfl
  · dsimp only
    split
    · exact State.traffic_offerNtc _ _
    · rfl

theorem sessionClose_moves (h : execSessionClose s = .next t) : Moves s t :=
  .of_whenOp h fun m => .of_whenOwner m fun _ => .nothing rfl

theorem noticeAck_moves (h : execNoticeAck s = .next t) : Moves s t := by
  refine .of_whenOp h fun m => .nothing ?_
  split <;> rfl

theorem sessionOpen_moves (h : execSessionOpen s = .next t) : Moves s t := by
  refine .of_whenOp h fun m => .nothing ?_
  split
  · split
    · rfl
    · split
      · split
        · rfl
        · split <;> rfl
      · split <;> rfl
  · rfl

theorem sessionIdleExpiry_moves (h : execSessionIdleExpiry s = .next t) : Moves s t := by
  refine .of_whenRunning h (.nothing ?_)
  split
  · rfl
  · exact State.traffic_request _ _ _ _

theorem sessionEndOnLinkDown_moves {p : Port} (h : execSessionEndOnLinkDown p s = .next t) :
    Moves s t := by
  refine .of_whenRunning h (.nothing ?_)
  split
  · rfl
  · dsimp only
    split
    · split
      · exact State.traffic_request _ _ _ _
      · rfl
    · rfl

/-! ### The change list -/

/-- A stage operation changes the session at most (R151, R152). -/
theorem Moves.of_stageParsed (s : State) (m : Mgt) (item : Option ListItem) :
    Moves s (s.stageParsed m item) := by
  refine .of_whenOwner m fun x => .nothing ?_
  split
  · rfl
  · unfold State.stage
    split
    · rfl
    · split <;> rfl

theorem stageConfig_moves (h : execStageConfig s = .next t) : Moves s t :=
  .of_whenOp h fun m => .of_stageParsed s m _

theorem stageAdd_moves (h : execStageAdd s = .next t) : Moves s t :=
  .of_whenOp h fun m => .of_stageParsed s m _

theorem stageModify_moves (h : execStageModify s = .next t) : Moves s t :=
  .of_whenOp h fun m => .of_stageParsed s m _

theorem stageDelete_moves (h : execStageDelete s = .next t) : Moves s t :=
  .of_whenOp h fun m => .of_stageParsed s m _

theorem discard_moves (h : execDiscard s = .next t) : Moves s t :=
  .of_whenOp h fun m => .of_whenOwner m fun _ => .nothing rfl

theorem apply_moves (h : execApply s = .next t) : Moves s t := by
  refine .of_whenOp h fun m => .of_whenOwner m fun x => .nothing ?_
  split
  · rfl
  · split
    · rfl
    · split
      · rfl
      case h_2 w _ =>
        have heffect : (s.takeEffect x w).traffic = s.traffic := by
          rw [State.takeEffect, State.traffic_maskChangeIf, State.traffic_maskChangeIf]
          rfl
        exact heffect

theorem listRead_moves (h : execListRead s = .next t) : Moves s t := by
  refine .of_whenOp h fun m => .of_whenOwner m fun x => .nothing ?_
  split
  · split
    · rfl
    · split <;> rfl
  · rfl

/-! ### The reads and the mode -/

theorem unknownOp_moves (h : execUnknownOp s = .next t) : Moves s t :=
  .of_whenMgt h fun _ => .nothing rfl

theorem echo_moves (h : execEcho s = .next t) : Moves s t :=
  .of_whenMgt h fun _ => .nothing rfl

theorem leaseStatus_moves (h : execLeaseStatus s = .next t) : Moves s t :=
  .of_whenOp h fun _ => .nothing rfl

theorem readStore_moves (h : execReadStore s = .next t) : Moves s t :=
  .of_whenOp h fun _ => .nothing rfl

theorem readConfig_moves (h : execReadConfig s = .next t) : Moves s t := by
  refine .of_whenOp h fun m => .nothing ?_
  split
  · split <;> rfl
  · rfl

theorem readEntry_moves (h : execReadEntry s = .next t) : Moves s t := by
  refine .of_whenOp h fun m => .nothing ?_
  split
  · rfl
  · split <;> rfl

theorem readBucket_moves (h : execReadBucket s = .next t) : Moves s t := by
  refine .of_whenOp h fun m => .nothing ?_
  split
  · split <;> rfl
  · rfl

theorem readStation_moves (h : execReadStation s = .next t) : Moves s t := by
  refine .of_whenOp h fun m => .nothing ?_
  split
  · split <;> rfl
  · rfl

theorem readCounters_moves (h : execReadCounters s = .next t) : Moves s t := by
  refine .of_whenOp h fun m => .nothing ?_
  split
  · split <;> rfl
  · rfl

theorem clearCounters_moves (h : execClearCounters s = .next t) : Moves s t :=
  .of_whenOp h fun m => .of_whenOwner m fun _ => .nothing rfl

theorem setMode_moves (h : execSetMode s = .next t) : Moves s t := by
  refine .of_whenOp h fun m => .of_whenOwner m fun x => .nothing ?_
  split
  · split <;> rfl
  · rfl

/-! ### The store and RESTART -/

theorem Moves.of_storeOperation {kind : StoreKind} (h : s.storeOperation kind = .next t) : Moves s t := by
  refine .of_whenOp h fun m => .of_whenOwner m fun x => .nothing ?_
  split <;> rfl

theorem storeWriteEnd_moves {result : ReadBack} (h : execStoreWriteEnd result s = .next t) :
    Moves s t := by
  refine .of_whenRunning h (.nothing ?_)
  split
  · rfl
  · cases result with
    | equal => exact (State.traffic_storeReport _ _ _ _ _).trans (State.traffic_storeEffect _ _)
    | mismatch => exact State.traffic_storeReport _ _ _ _ _

theorem storeLimitExpiry_moves (h : execStoreLimitExpiry s = .next t) : Moves s t := by
  refine .of_whenRunning h (.nothing ?_)
  split
  · rfl
  · exact State.traffic_storeReport _ _ _ _ _

theorem restart_moves (h : execRestart s = .next t) : Moves s t := by
  refine .of_whenOp h fun m => .of_whenOwner m fun x => .nothing ?_
  split <;> rfl

/-- Every held request is answered, and every group is free (R178, R92, R106). -/
theorem restartHoldAndLeasePart_moves (h : execRestartHoldAndLeasePart s = .next t) : Moves s t := by
  refine .of_whenRestarting h fun r => ?_
  obtain ⟨hheld, htriples, _⟩ := State.traffic_eq_iff.1 (State.traffic_purge { s with
    mode := s.settings.startMode
    meters := metersFor s.settings
    leases := Vector.replicate 16 none
    credits := s.settings.share
    lastShare := .b
    restart := some { r with holdDone := true } } (fun _ => true) .aborted)
  refine .emptied (hheld.trans ?_) (htriples ▸ .refl _)
  simp [State.traffic]

/-- Every transaction is answered (R125). -/
theorem restartTransactionPart_moves (h : execRestartTransactionPart s = .next t) : Moves s t := by
  refine .of_whenRestarting h fun r => ?_
  refine Moves.congr ?_ ((State.traffic_runClaim _ _ _).trans (State.traffic_runClaim _ _ _))
  exact .of_leases (.refl _) (List.nil_sublist _) rfl

theorem restartNoticePart_moves {p : Port} (h : execRestartNoticePart p s = .next t) : Moves s t := by
  refine .of_whenRestarting h fun _ => .nothing ?_
  rw [State.traffic_maskChange, State.traffic_request]
  rfl

theorem restartAnswer_moves (h : execRestartAnswer s = .next t) : Moves s t := by
  refine .of_whenRestarting h fun _ => .nothing ?_
  split <;> rfl

end Commands

/-! ### Every command -/

/-- What any command can leave of the traffic. -/
theorem exec_moves {c : Instr} {s t : State} (h : exec c s = .next t) : Moves s t := by
  cases c with
  | powerOn => exact powerOn_moves h
  | powerFail => exact powerFail_moves h
  | resetNFall => exact resetNFall_moves h
  | pinReset => exact pinReset_moves h
  | startUpLoadEnd => exact startUpLoadEnd_moves h
  | framingError l x => exact framingError_moves h
  | frameGapPause l => exact frameGapPause_moves h
  | controlTelegram p last => exact controlTelegram_moves h
  | silenceTimerExpiry x => exact silenceTimerExpiry_moves h
  | leaseReleaseOnLinkDown p => exact leaseReleaseOnLinkDown_moves h
  | sessionEndOnLinkDown p => exact sessionEndOnLinkDown_moves h
  | fieldTelegram last => exact fieldTelegram_moves h
  | screening x => exact screening_moves h
  | hitCountRaise station block => exact hitCountRaise_moves h
  | dispatch => exact dispatch_moves h
  | fieldTransmissionEnd => exact fieldTransmissionEnd_moves h
  | deadline tag => exact deadline_moves h
  | holdTimerExpiry n => exact holdTimerExpiry_moves h
  | meterRefill n => exact meterRefill_moves h
  | leaseExpiry g => exact leaseExpiry_moves h
  | isolatedPurge => exact isolatedPurge_moves h
  | portSendEnd p => exact portSendEnd_moves h
  | noticeRepeatExpiry p => exact noticeRepeatExpiry_moves h
  | sessionIdleExpiry => exact sessionIdleExpiry_moves h
  | unknownOp => exact unknownOp_moves h
  | echo => exact echo_moves h
  | sessionOpen => exact sessionOpen_moves h
  | sessionClose => exact sessionClose_moves h
  | readConfig => exact readConfig_moves h
  | stageConfig => exact stageConfig_moves h
  | stageAdd => exact stageAdd_moves h
  | stageModify => exact stageModify_moves h
  | stageDelete => exact stageDelete_moves h
  | listRead => exact listRead_moves h
  | apply => exact apply_moves h
  | discard => exact discard_moves h
  | commit => exact .of_storeOperation h
  | setLock => exact .of_storeOperation h
  | eraseProtected => exact .of_storeOperation h
  | readEntry => exact readEntry_moves h
  | readBucket => exact readBucket_moves h
  | readStation => exact readStation_moves h
  | readCounters => exact readCounters_moves h
  | clearCounters => exact clearCounters_moves h
  | leaseTake => exact leaseTake_moves h
  | leaseRenew => exact leaseRenew_moves h
  | leaseRelease => exact leaseRelease_moves h
  | leaseStatus => exact leaseStatus_moves h
  | noticeAck => exact noticeAck_moves h
  | setMode => exact setMode_moves h
  | readStore => exact readStore_moves h
  | restart => exact restart_moves h
  | restartHoldAndLeasePart => exact restartHoldAndLeasePart_moves h
  | restartTransactionPart => exact restartTransactionPart_moves h
  | restartNoticePart p => exact restartNoticePart_moves h
  | restartAnswer => exact restartAnswer_moves h
  | storeWriteEnd result => exact storeWriteEnd_moves h
  | storeLimitExpiry => exact storeLimitExpiry_moves h
  | characterReceived l x => exact characterReceived_moves h

/-! ## What every step keeps of the hold queue (R93) -/

theorem Moves.keepsHeld {s t : State} (h : Moves s t) (hs : s.HeldOk) : t.HeldOk := by
  cases h with
  | left hheld htriples _ =>
    exact ⟨hheld.length_le.trans hs.total, fun p => (hheld.filter _).length_le.trans (hs.perPort p),
      hs.triples.sublist ((hheld.map _).append htriples)⟩
  | admitted r hr h =>
    obtain ⟨hheld, htriples, _⟩ := State.traffic_eq_iff.1 h
    replace htriples : t.entries.map Entry.triple = s.entries.map Entry.triple := htriples
    refine ⟨?_, fun p => ?_, ?_⟩
    · rw [hheld, List.length_append]
      exact hr.total
    · rw [hheld, List.filter_append, List.length_append]
      by_cases hp : r.port = p
      · subst hp
        simpa using hr.perPort
      · simpa [hp] using hs.perPort p
    · rw [hheld, htriples, List.map_append]
      have hperm : (s.held.map HeldReq.triple ++ [r].map HeldReq.triple ++ s.entries.map Entry.triple).Perm
          (r.triple :: (s.held.map HeldReq.triple ++ s.entries.map Entry.triple)) := by
        rw [List.append_assoc]
        exact List.perm_middle
      exact hperm.nodup_iff.2 (List.nodup_cons.2 ⟨hr.fresh, hs.triples⟩)
  | dispatched r hr h =>
    obtain ⟨hheld, htriples, _⟩ := State.traffic_eq_iff.1 h
    have hless : (s.held.erase r).Sublist s.held := List.erase_sublist
    refine ⟨?_, fun p => ?_, ?_⟩
    · rw [hheld]
      exact hless.length_le.trans hs.total
    · rw [hheld]
      exact (hless.filter _).length_le.trans (hs.perPort p)
    · rw [hheld, htriples]
      have hperm : (s.held.map HeldReq.triple ++ s.entries.map Entry.triple).Perm
          ((s.held.erase r).map HeldReq.triple ++ (s.entries.map Entry.triple ++ [r.triple])) := by
        refine (((List.perm_cons_erase hr).map HeldReq.triple).append_right _).trans ?_
        rw [← List.append_assoc]
        exact (List.perm_append_singleton _ _).symm
      exact hperm.nodup_iff.1 hs.triples

/-- Settles O53: a step takes requests out, admits one that fits, or makes one a transaction. -/
theorem everyStepKeepsTheHoldQueue : Obligations.EveryStepKeepsTheHoldQueue := by
  intro s t hs h
  obtain ⟨htotal, hport, htriples⟩ := hs
  unfold step at h
  split at h
  · cases h
    exact ⟨htotal, hport, htriples⟩
  · exact (exec_moves h).keepsHeld ⟨htotal, hport, htriples⟩

/-! ## What every step keeps of the leases of held requests (R100) -/

theorem State.leasesOk_iff (s : State) : s.LeasesOk
    ↔ ∀ r ∈ s.held, r.op ≠ .read → r.group ≠ 0 → s.holds r.port r.group = true := by
  simp only [State.LeasesOk, State.holds_iff]

theorem Moves.keepsLeases {s t : State} (h : Moves s t) (hs : s.LeasesOk) : t.LeasesOk := by
  rw [State.leasesOk_iff] at hs ⊢
  intro r hr hop hgroup
  cases h with
  | left hheld _ hleases => exact hleases r hr hop (hs r (hheld.subset hr) hop hgroup)
  | admitted q hq h =>
    obtain ⟨hheld, _, hleases⟩ := State.traffic_eq_iff.1 h
    rw [State.holds_congr hleases]
    rw [hheld] at hr
    rcases List.mem_append.1 hr with hold | hnew
    · exact hs r hold hop hgroup
    · obtain rfl := List.mem_singleton.1 hnew
      exact hq.leased hop hgroup
  | dispatched q _ h =>
    obtain ⟨hheld, _, hleases⟩ := State.traffic_eq_iff.1 h
    rw [State.holds_congr hleases]
    rw [hheld] at hr
    exact hs r (List.mem_of_mem_erase hr) hop hgroup

/-- A dispatch changes no lease group (Table 5-1). -/
theorem dispatch_leases {s t : State} (h : exec .dispatch s = .next t) : t.leases = s.leases := by
  obtain ⟨_, _, _, _, hchanged, _⟩ := onlyTheseCommandsChange .dispatch s t h
  by_contra hne
  have hlisted := hchanged hne
  simp at hlisted

/-- Settles O54: a step keeps the lease of every request that it leaves held, and a dispatch keeps all. -/
theorem everyStepKeepsTheLeases : Obligations.EveryStepKeepsTheLeases := by
  refine ⟨fun s t hs h => ?step, fun s t hs h r hr _ => ?dispatch⟩
  case step =>
    unfold step at h
    split at h
    · cases h
      exact hs
    · exact (exec_moves h).keepsLeases hs
  case dispatch =>
    rw [State.holds_congr (dispatch_leases h)]
    by_cases hop : r.op = .read
    · exact .inl hop
    by_cases hgroup : r.group = 0
    · exact .inr (.inl hgroup)
    · exact .inr (.inr (s.leasesOk_iff.1 hs r hr hop hgroup))

end Sys2Proof.Machine

/-! ## Deadlines, quarantine and the return of a station (R104, R116, R117, R119, R120) -/

namespace Sys2Proof.Machine

/-! ### Claims of one happening on both ports (R128) -/

/-- A claim that does not reach the count of free orders, as answers and notice requests do not. -/
def BlindToChoices (claim : State → State) : Prop :=
  ∀ (s : State) (n : Nat), claim { s with choices := n } = { claim s with choices := n }

theorem foldl_blindToChoices {claims : List (State → State)} (h : ∀ claim ∈ claims, BlindToChoices claim)
    (n : Nat) : ∀ s : State, claims.foldl (fun u claim => claim u) { s with choices := n }
      = { claims.foldl (fun u claim => claim u) s with choices := n } := by
  induction claims with
  | nil => exact fun _ => rfl
  | cons claim rest ih =>
    obtain ⟨hclaim, hrest⟩ := List.forall_mem_cons.1 h
    intro s
    rw [List.foldl_cons, List.foldl_cons, hclaim, ih hrest]

theorem State.TakenInSomeOrder.perm {s t : State} {claims claims' : List (State → State)}
    (h : s.TakenInSomeOrder claims t) (hperm : claims.Perm claims') : s.TakenInSomeOrder claims' t := by
  obtain ⟨order, n, horder, rfl⟩ := h
  exact ⟨order, n, horder.trans hperm, rfl⟩

/-- The claims of one port and then those of the other are the claims of both, in some order. -/
theorem State.TakenInSomeOrder.append {s t u : State} {front back : List (State → State)}
    (hfront : s.TakenInSomeOrder front t) (hback : t.TakenInSomeOrder back u)
    (hblind : ∀ claim ∈ front, BlindToChoices claim) : s.TakenInSomeOrder (front ++ back) u := by
  obtain ⟨order, n, horder, rfl⟩ := hfront
  obtain ⟨order', n', horder', rfl⟩ := hback
  refine ⟨order ++ order', n', horder.append horder', ?_⟩
  have hblind' : ∀ claim ∈ order, BlindToChoices claim := fun claim h => hblind claim (horder.mem_iff.1 h)
  rw [List.foldl_append, ← foldl_blindToChoices hblind' n']

/-! ### The deadline of a transaction (R116, R117, R104) -/

/-- A streak stays at 15 (R116). -/
theorem raiseStreak_eq (n : Nat) : raiseStreak n = min 15 (n + 1) := by
  unfold raiseStreak
  split <;> omega

/-- Below the limit the station is IDLE again (R116). -/
theorem Station.timedOut_of_lt {r : Station} {limit : Nat} (h : min 15 (r.streak + 1) < limit) (due : Nat) :
    r.timedOut limit due = { r with
      state := .idle, streak := min 15 (r.streak + 1), timeouts := min 65535 (r.timeouts + 1) } := by
  simp only [Station.timedOut, raiseStreak_eq, raise16_eq, if_pos h]

/-- At the limit the station is QUARANTINED, with its hold timer running (R117). -/
theorem Station.timedOut_of_le {r : Station} {limit : Nat} (h : limit ≤ min 15 (r.streak + 1)) (due : Nat) :
    r.timedOut limit due = { r with
      state := .quarantined, streak := min 15 (r.streak + 1), timeouts := min 65535 (r.timeouts + 1)
      hold := some due } := by
  simp only [Station.timedOut, raiseStreak_eq, raise16_eq, if_neg (Nat.not_lt.2 h)]

/-- The entry whose deadline runs out is a transaction (R116). -/
theorem State.mem_of_waitingEntry {s : State} {tag : Byte} {e : Entry} {due : Nat}
    (h : s.waitingEntry tag = some (e, due)) : e ∈ s.entries := by
  obtain ⟨e', he', hsome⟩ := List.exists_of_findSome?_eq_some h
  split at hsome
  · split at hsome
    · cases hsome
      exact he'
    · cases hsome
  · cases hsome

/-- A relay tag that one transaction holds names it, when it is WAITING (R109, R116). -/
theorem State.waitingEntry_of_unique {s : State} {e : Entry} {due : Nat} (he : e ∈ s.entries)
    (hwaiting : e.state = .waiting due) (honly : ∀ e' ∈ s.entries, e'.relayTag = e.relayTag → e' = e) :
    s.waitingEntry e.relayTag = some (e, due) := by
  cases hfound : s.waitingEntry e.relayTag with
  | none =>
    have hno := List.findSome?_eq_none_iff.1 hfound e he
    simp [hwaiting] at hno
  | some found =>
    obtain ⟨e', he', hsome⟩ := List.exists_of_findSome?_eq_some hfound
    split at hsome
    case h_1 due' hwaiting' =>
      split at hsome
      case isTrue htag =>
        obtain rfl := honly e' he' htag
        obtain rfl : due' = due := EntryState.waiting.inj (hwaiting'.symm.trans hwaiting)
        exact hsome.symm
      case isFalse => cases hsome
    case h_2 => cases hsome

/-- The state in which a deadline hands on its claims: the clock is at the deadline, the transaction is gone,
its station has the record `r`, and of the held requests those of `held` are left. -/
def State.afterDeadline (s : State) (e : Entry) (due : Nat) (r : Station) (held : List HeldReq) : State :=
  { s with now := max s.now due, entries := s.entries.erase e, held := held }.withStation e.station.toNat r

section Deadline
variable {s : State} {e : Entry} {due : Nat}

/-- The hold timer that a deadline starts runs out QUARANTINE_HOLD after it (R117). -/
theorem State.holdUntil_eq (s : State) (due : Nat) :
    (s.reach due).inMs (s.settings.quarantineHold * 1000)
      = max s.now due + 32000000 * s.settings.quarantineHold := by
  simp only [State.inMs, msTicks, Config.ticksPerMs, State.reach_now]
  omega

/-- DEADLINE of the transaction that its tag names, whose station is left with the record `r` (R116, R117,
R104). -/
theorem deadline_of_waiting {r : Station} {quarantined : Bool} (hrun : s.phase = .running)
    (hfound : s.waitingEntry e.relayTag = some (e, due)) (hstation : isFieldStation e.station = true)
    (hr : (s.station e.station.toNat).timedOut s.settings.quarantineLimit
      (max s.now due + 32000000 * s.settings.quarantineHold) = r)
    (hq : decide (r.state = .quarantined) = quarantined) :
    exec (.deadline e.relayTag) s = .next
      (((s.afterDeadline e due r
          (if quarantined then s.held.filter (fun h => !(h.station = e.station)) else s.held)).inSomeOrder
        (deadlineClaims e s.held quarantined .a)).inSomeOrder (deadlineClaims e s.held quarantined .b)) := by
  subst hr hq
  have hrecord : (s.reach due).station e.station.toNat = s.station e.station.toNat := by
    cases e.station.toNat <;> rfl
  simp only [exec, execDeadline, State.whenRunning_running hrun, hfound, State.afterDeadline,
    State.withStation_of_fieldStation _ hstation, hrecord, State.reach_settings, State.holdUntil_eq]
  rfl

/-- The TIMEOUT answer goes to the port of the transaction, and the other port gets none (R116). -/
theorem deadlineClaims_of_not_quarantined (u : State) (e : Entry) (held : List HeldReq) :
    (u.inSomeOrder (deadlineClaims e held false .a)).inSomeOrder (deadlineClaims e held false .b)
      = State.answer e.port [e.relayRsp .timeout] u := by
  simp only [deadlineClaims, Bool.false_eq_true, if_false, List.append_nil, State.inSomeOrder_runClaim]
  cases e.port <;> simp

/-- The claims of a quarantine at port `p`: its run of NO_STATION answers, the notice, and the TIMEOUT answer
when the transaction is the port's (R117, R104). -/
def quarantineClaims (e : Entry) (held : List HeldReq) (p : Port) : List (State → State) :=
  State.answer p (purgeRun held (·.station = e.station) .noStation p)
    :: State.request .stationQuarantined (.station e.station) p
    :: if e.port = p then [State.answer p [e.relayRsp .timeout]] else []

theorem quarantineClaims_taken (u : State) (e : Entry) (held : List HeldReq) (p : Port) :
    u.TakenInSomeOrder (quarantineClaims e held p) (u.inSomeOrder (deadlineClaims e held true p)) := by
  refine State.TakenInSomeOrder.runClaim_append ((u.inSomeOrder_taken _).perm ?_)
  unfold deadlineClaims
  refine List.perm_append_comm.trans ?_
  rw [if_pos rfl, List.append_assoc]
  refine List.Perm.append_left _ (List.Perm.cons _ ?_)
  split <;> rfl

theorem quarantineClaims_blind (e : Entry) (held : List HeldReq) (p : Port) :
    ∀ claim ∈ quarantineClaims e held p, BlindToChoices claim := by
  have hanswer (run : List Telegram) : BlindToChoices (State.answer p run) :=
    fun u n => u.answer_choices_comm p run n
  have hnotice : BlindToChoices (State.request .stationQuarantined (.station e.station) p) :=
    fun u n => u.request_choices_comm _ _ p n
  unfold quarantineClaims
  split <;> simp [hanswer, hnotice]

/-- At the limit the claims of both ports are taken, each once (R128). -/
theorem deadlineClaims_of_quarantined (u : State) (e : Entry) (held : List HeldReq) :
    u.TakenInSomeOrder (State.answer e.port [e.relayRsp .timeout]
        :: [Port.a, .b].map (fun p => State.answer p (purgeRun held (·.station = e.station) .noStation p))
        ++ [Port.a, .b].map (State.request .stationQuarantined (.station e.station)))
      ((u.inSomeOrder (deadlineClaims e held true .a)).inSomeOrder (deadlineClaims e held true .b)) := by
  refine ((quarantineClaims_taken u e held .a).append (quarantineClaims_taken _ e held .b)
    (quarantineClaims_blind e held .a)).perm ?_
  classical
  rw [List.perm_iff_count]
  intro claim
  unfold quarantineClaims
  cases e.port <;> simp [List.count_cons] <;> omega

end Deadline

/-- Settles O28: the record of the station below the limit and at it, and the claims of either case. -/
theorem deadlineTimesOut : Obligations.DeadlineTimesOut := by
  intro s e due hrun he hwaiting honly hlow hhigh n r streak timeout now
  have hstation : isFieldStation e.station = true := (isFieldStation_iff _).2 ⟨hlow, hhigh⟩
  have hfound := State.waitingEntry_of_unique he hwaiting honly
  constructor
  case left =>
    intro hbelow
    rw [deadline_of_waiting hrun hfound hstation (Station.timedOut_of_lt hbelow _) rfl]
    exact congrArg Host.Outcome.next (deadlineClaims_of_not_quarantined _ e s.held)
  case right =>
    intro hlimit run notice
    have hheld : (s.held.filter fun h => !decide (h.station = e.station))
        = s.held.filter fun h => h.station ≠ e.station := by simp
    have hrunOf (p : Port) : purgeRun s.held (·.station = e.station) .noStation p = run p := by
      simp only [purgeRun, run, Bool.and_comm, Bool.decide_and]
      rfl
    refine ⟨_, deadline_of_waiting hrun hfound hstation (Station.timedOut_of_le hlimit _) rfl, ?_⟩
    have hclaims := deadlineClaims_of_quarantined
      (s.afterDeadline e due { r with
        state := .quarantined, streak := streak, timeouts := min 65535 (r.timeouts + 1)
        hold := some (now + 32000000 * s.settings.quarantineHold) }
        (s.held.filter fun h => !(h.station = e.station))) e s.held
    simp only [hrunOf] at hclaims
    rw [← hheld]
    exact hclaims

/-! ### The return of a station (R119, R120, R27) -/

section Return
variable (s : State)

/-- A counter of the Field port and an offer of an NTC do not reach each other. -/
theorem State.offerNtc_countField_comm (k : FieldCounter) (p : Port) :
    (s.countField k).offerNtc p = (s.offerNtc p).countField k := by
  simp only [State.offerNtc, apply_ite (State.countField · k)]
  rfl

/-- A counter of the Field port and a notice request do not reach each other. -/
theorem State.request_countField_comm (f : NoticeFlag) (d : Detail) (k : FieldCounter) (p : Port) :
    (s.countField k).request f d p = (s.request f d p).countField k := by
  simp only [State.request, apply_ite (State.countField · k), ← State.offerNtc_countField_comm]
  rfl

/-- FIELD_TELEGRAM of another kind than RSP and EVT: heard, and of a wrong kind (R27, Table 2-4). -/
theorem fieldTelegram_wrongKind {s : State} {last : Byte} {t : Telegram} (hrun : s.phase = .running)
    (ht : (s.rx.get .field).assembly.receive ⟨last, false⟩ = .telegram t) (hrsp : t.kind ≠ .rsp)
    (hevt : t.kind ≠ .evt) :
    exec (.fieldTelegram last) s = .next ((s.heard t).countField .wrongKind) := by
  simp only [exec, execFieldTelegram, State.whenRunning_running hrun, ht, State.takeFieldTelegram,
    State.heard_eq]
  cases hk : t.kind <;> simp_all

/-- A telegram of a QUARANTINED station is heard: it is counted and the station returns (R119). -/
theorem State.heard_of_quarantined {s : State} {t : Telegram} (h1 : 1 ≤ t.source.toNat)
    (h62 : t.source.toNat ≤ 62) (hquarantined : (s.station t.source.toNat).state = .quarantined) :
    s.heard t = State.request .stationReturned (.station t.source) .b
      (State.request .stationReturned (.station t.source) .a
        ((((s.withAssembly .field (.hunt false)).countField .telegramsIn)).withStation t.source.toNat
          (s.station t.source.toNat).returned)) := if_pos ⟨h1, h62, hquarantined⟩

/-- Port `p` has been told of the return of station `source`: STATION_RETURNED is pending with its number. -/
def State.ToldOfReturn (s : State) (source : Byte) (p : Port) : Prop :=
  (s.notice p).flags.getLsbD 1 = true ∧ (s.notice p).station = source

/-- The request of STATION_RETURNED tells its port. -/
theorem State.toldOfReturn_request (source : Byte) (p : Port) :
    (s.request .stationReturned (.station source) p).ToldOfReturn source p := by
  obtain ⟨_, _, _, _, _, _, _, hflags, hstation, _⟩ :=
    s.request_keeps .stationReturned (.station source) p
  exact ⟨by rw [hflags]; simp [NoticeFlag.bit], hstation⟩

variable {s} {source : Byte} {u : State}

/-- A request that writes no other station leaves a port told. -/
theorem State.ToldOfReturn.request {q : Port} (h : s.ToldOfReturn source q) (f : NoticeFlag) {d : Detail}
    (hd : d = .nothing ∨ d = .station source) (p : Port) : (s.request f d p).ToldOfReturn source q := by
  obtain ⟨hpending, hnumber⟩ := h
  obtain ⟨_, _, _, _, _, _, hother, hflags, hstation, _⟩ := s.request_keeps f d p
  by_cases hq : q = p
  · subst hq
    refine ⟨by simp [hflags, hpending], hstation.trans ?_⟩
    rcases hd with rfl | rfl
    · exact hnumber
    · rfl
  · have hnotice : (s.request f d p).notice q = s.notice q := Port.eq_other_iff.2 hq ▸ hother
    exact ⟨hnotice ▸ hpending, hnotice ▸ hnumber⟩

/-- Event routing reaches counters, output units and notice states, and nothing else (R132, R133). -/
theorem State.routeEvt_frame (s : State) (evt : Telegram) : ∃ counters fieldCounters outputs notices,
    s.routeEvt evt = { s with
      counters := counters, fieldCounters := fieldCounters, outputs := outputs, notices := notices } := by
  have hcount : ∃ fieldCounters, s.countRoute evt = { s with fieldCounters := fieldCounters } := by
    unfold State.countRoute
    split
    · exact ⟨_, rfl⟩
    · split <;> exact ⟨_, rfl⟩
  have hoffer (v : State) (route : Route) (p : Port) : ∃ counters outputs notices,
      v.offerTo evt route p
        = { v with counters := counters, outputs := outputs, notices := notices } := by
    unfold State.offerTo State.offerEvt
    split
    · dsimp only
      split
      · exact ⟨_, _, _, rfl⟩
      · obtain ⟨outputs, notices, h⟩ := State.request_frame _ NoticeFlag.eventGap .nothing p
        exact ⟨_, outputs, notices, h⟩
    · exact ⟨_, _, _, rfl⟩
  obtain ⟨fieldCounters, hcount⟩ := hcount
  obtain ⟨_, _, _, ha⟩ := hoffer { s with fieldCounters := fieldCounters } (s.routeOf evt) .a
  obtain ⟨counters, outputs, notices, hb⟩ := hoffer _ (s.routeOf evt) .b
  exact ⟨counters, fieldCounters, outputs, notices, by rw [State.routeEvt, hcount, ha, hb]⟩

/-- Event routing leaves a port told (R132). -/
theorem State.ToldOfReturn.routeEvt {q : Port} (h : s.ToldOfReturn source q) (evt : Telegram) :
    (s.routeEvt evt).ToldOfReturn source q := by
  have hcount : (s.countRoute evt).ToldOfReturn source q := by
    unfold State.countRoute
    split
    · exact h
    · split <;> exact h
  have hoffer {v : State} (route : Route) (p : Port) (hv : v.ToldOfReturn source q) :
      (v.offerTo evt route p).ToldOfReturn source q := by
    unfold State.offerTo State.offerEvt
    split
    · dsimp only
      split
      · exact hv
      · refine State.ToldOfReturn.request ?_ _ (.inl rfl) p
        exact hv
    · exact hv
  exact hoffer _ _ (hoffer _ _ hcount)

/-- Station `source` has returned between `s` and `u`, no other record has changed, and both ports are told
(R119). -/
structure State.Returns (s : State) (source : Byte) (u : State) : Prop where
  state : (u.station source.toNat).state = .idle
  streak : (u.station source.toNat).streak = 0
  hold : (u.station source.toNat).hold = none
  timeouts : (u.station source.toNat).timeouts = (s.station source.toNat).timeouts
  others : ∀ k, k ≠ source.toNat → u.station k = s.station k
  told : ∀ p, u.ToldOfReturn source p

theorem State.returns_heard {t : Telegram} (h1 : 1 ≤ t.source.toNat) (h62 : t.source.toNat ≤ 62)
    (hquarantined : (s.station t.source.toNat).state = .quarantined) : s.Returns t.source (s.heard t) := by
  have hrecord (k : Nat) : (s.heard t).station k
      = if k = t.source.toNat then (s.station t.source.toNat).returned else s.station k := by
    rw [State.heard_of_quarantined h1 h62 hquarantined, State.station_request, State.station_request,
      State.station_withStation]
    simp only [h1, h62, and_true]
    rfl
  refine ⟨?_, ?_, ?_, ?_, fun k hk => by rw [hrecord, if_neg hk], fun p => ?_⟩
  case refine_5 =>
    rw [State.heard_of_quarantined h1 h62 hquarantined]
    cases p with
    | a => exact (State.toldOfReturn_request _ _ _).request _ (.inr rfl) _
    | b => exact State.toldOfReturn_request _ _ _
  all_goals
    rw [hrecord, if_pos rfl]
    rfl

/-- The record of the returned station may be written again, as long as it is that of a returned station. -/
theorem State.Returns.withStation {r : Station} (h : s.Returns source u) (hstate : r.state = .idle)
    (hstreak : r.streak = 0) (hhold : r.hold = none)
    (htimeouts : r.timeouts = (u.station source.toNat).timeouts) :
    s.Returns source (u.withStation source.toNat r) := by
  have hsame : (u.withStation source.toNat r).station source.toNat = r ∨
      (u.withStation source.toNat r).station source.toNat = u.station source.toNat := by
    rw [State.station_withStation]
    split
    · exact .inl rfl
    · exact .inr rfl
  refine ⟨?_, ?_, ?_, ?_, fun k hk => ?_, fun p => ?_⟩
  case refine_5 => rw [State.station_withStation, if_neg fun hsame => hk hsame.1, h.others k hk]
  case refine_6 =>
    have hnotice : (u.withStation source.toNat r).notice p = u.notice p := by
      simp only [State.notice, State.withStation_notices]
    simpa only [State.ToldOfReturn, hnotice] using h.told p
  all_goals rcases hsame with heq | heq <;> rw [heq]
  · exact hstate
  · exact h.state
  · exact hstreak
  · exact h.streak
  · exact hhold
  · exact h.hold
  · exact htimeouts.trans h.timeouts
  · exact h.timeouts

/-- What an RSP does beside its return keeps the return (R113, R114). -/
theorem State.Returns.takeRsp {rsp : Telegram} (h : s.Returns rsp.source u) :
    s.Returns rsp.source (u.takeRsp rsp) := by
  unfold State.takeRsp
  split
  case h_1 e hfind =>
    obtain ⟨hstation, _, _⟩ := (Entry.matchesRsp_iff rsp e).1 (List.find?_some hfind)
    have hleft : s.Returns rsp.source { u with entries := u.entries.erase e } := { h with }
    rw [State.matched, hstation]
    exact { hleft.withStation (r := { u.station rsp.source.toNat with state := .idle, streak := 0 })
      rfl rfl h.hold rfl with }
  case h_2 =>
    have hcounted : s.Returns rsp.source (u.countField .unmatched) := { h with }
    unfold State.unmatchedRsp
    dsimp only
    split
    · exact hcounted.withStation h.state h.streak h.hold rfl
    · exact hcounted

/-- Event routing changes no record and leaves both ports told (R132). -/
theorem State.Returns.routeEvt (h : s.Returns source u) (evt : Telegram) :
    s.Returns source (u.routeEvt evt) := by
  have hstation (k : Nat) : (u.routeEvt evt).station k = u.station k := by
    obtain ⟨_, _, _, _, hframe⟩ := u.routeEvt_frame evt
    rw [hframe]
    rfl
  exact ⟨by rw [hstation, h.state], by rw [hstation, h.streak], by rw [hstation, h.hold],
    by rw [hstation, h.timeouts], fun k hk => by rw [hstation, h.others k hk],
    fun p => (h.told p).routeEvt evt⟩

end Return

/-- FIELD_TELEGRAM of a QUARANTINED station returns it, whatever the kind (R119, Table 2-4). -/
theorem fieldTelegram_returns {s : State} {last : Byte} {t : Telegram} (hrun : s.phase = .running)
    (ht : (s.rx.get .field).assembly.receive ⟨last, false⟩ = .telegram t) (h1 : 1 ≤ t.source.toNat)
    (h62 : t.source.toNat ≤ 62) (hquarantined : (s.station t.source.toNat).state = .quarantined) :
    ∃ u, exec (.fieldTelegram last) s = .next u ∧ s.Returns t.source u := by
  have hheard := State.returns_heard h1 h62 hquarantined
  by_cases hrsp : t.kind = .rsp
  · refine ⟨_, fieldTelegram_rsp hrun ht hrsp, ?_⟩
    split
    · exact hheard.takeRsp
    · exact { hheard with }
  by_cases hevt : t.kind = .evt
  · exact ⟨_, fieldTelegram_evt hrun ht hevt, hheard.routeEvt t⟩
  · exact ⟨_, fieldTelegram_wrongKind hrun ht hrsp hevt, { hheard with }⟩

/-- A telegram of a wrong kind from a QUARANTINED station is counted, and the station returns (R27, R119). -/
theorem State.heard_wrongKind {s : State} {t : Telegram} (h1 : 1 ≤ t.source.toNat)
    (h62 : t.source.toNat ≤ 62) (hquarantined : (s.station t.source.toNat).state = .quarantined) :
    (s.heard t).countField .wrongKind = State.request .stationReturned (.station t.source) .b
      (State.request .stationReturned (.station t.source) .a
        ((((s.withAssembly .field (.hunt false)).countField .telegramsIn).countField .wrongKind).withStation
          t.source.toNat (s.station t.source.toNat).returned)) := by
  rw [State.heard_of_quarantined h1 h62 hquarantined, ← State.request_countField_comm,
    ← State.request_countField_comm]
  have hstation := (isFieldStation_iff t.source).2 ⟨h1, h62⟩
  simp only [State.withStation_of_fieldStation _ hstation]
  rfl

/-- Settles O27: the return that every kind brings, the wrong kinds, and the running out of the hold timer. -/
theorem quarantinedStationReturns : Obligations.QuarantinedStationReturns := by
  refine ⟨fun s last t hrun ht h1 h62 hquarantined => ⟨fun hwrong => ?wrongKind, ?returns⟩,
    fun s last t hrun ht hrsp hevt => ?dropped, fun s n due hrun h1 h62 hhold => ?timer⟩
  case wrongKind =>
    have hexec : exec (.fieldTelegram last) s = .next ((s.heard t).countField .wrongKind) := by
      rcases hwrong with ⟨hrsp, hevt⟩ | ⟨hrsp, hdest⟩
      · exact fieldTelegram_wrongKind hrun ht hrsp hevt
      · rw [fieldTelegram_rsp hrun ht hrsp, if_neg hdest]
    rw [hexec, State.heard_wrongKind h1 h62 hquarantined]
    rfl
  case returns =>
    obtain ⟨u, hexec, h⟩ := fieldTelegram_returns hrun ht h1 h62 hquarantined
    exact ⟨u, hexec, h.state, h.streak, h.hold, h.timeouts, h.others, h.told⟩
  case dropped =>
    intro live
    rw [fieldTelegram_wrongKind hrun ht hrsp hevt, State.countField, State.heard_fieldCounters]
    rfl
  case timer =>
    simp only [exec, execHoldTimerExpiry, State.whenRunning_running hrun, hhold]
    rfl

end Sys2Proof.Machine

/-! ## What every step keeps of the transactions and the stations (R93, R108, R118)

The invariant reads the stations of the held requests, the relay tags and stations of the transactions, and of
each station record its state, its streak and whether its hold timer runs. That part of a state is its roster.
Most commands leave the roster as it was, or only let requests leave. For the others, a request that joins the
hold queue, a dispatch, the end of a transaction, the return of a station and the clearing of all are one lemma
about the invariant each. -/

namespace Sys2Proof.Machine

/-! ### The roster of a state -/

/-- What the invariant reads of a station record: its state, its streak, and whether its hold timer runs. -/
def Station.standing (r : Station) : StationState × Nat × Bool := (r.state, r.streak, r.hold.isSome)

/-- What the invariant reads of a state: the stations of the held requests, the relay tags and stations of the
transactions, and the standings of the stations. -/
@[ext] structure Roster where
  held : List Byte
  tags : List Byte
  busy : List Byte
  standings : Vector (StationState × Nat × Bool) 62

/-- The roster of a state. -/
def State.roster (s : State) : Roster where
  held := s.held.map HeldReq.station
  tags := s.entries.map Entry.relayTag
  busy := s.entries.map Entry.station
  standings := s.stations.map Station.standing

theorem State.roster_eq_iff {s : State} {g : Roster} :
    s.roster = g ↔ s.held.map HeldReq.station = g.held ∧ s.entries.map Entry.relayTag = g.tags
      ∧ s.entries.map Entry.station = g.busy ∧ s.stations.map Station.standing = g.standings :=
  Roster.ext_iff

/-- Equal standings are equal station by station. -/
theorem State.standing_congr {s t : State}
    (h : t.stations.map Station.standing = s.stations.map Station.standing) (n : Nat) :
    (t.station n).state = (s.station n).state ∧ (t.station n).streak = (s.station n).streak
      ∧ (t.station n).hold.isSome = (s.station n).hold.isSome := by
  have hrecord (u : State) (k : Nat) : (u.station (k + 1)).standing
      = ((u.stations.map Station.standing)[k]?).getD Station.fresh.standing := by
    rw [Vector.getElem?_map]
    simp only [State.station]
    cases u.stations[k]? <;> rfl
  have hstanding : (t.station n).standing = (s.station n).standing := by
    cases n with
    | zero => rfl
    | succ k => rw [hrecord, hrecord, h]
  simpa only [Station.standing, Prod.mk.injEq] using hstanding

section Roster
variable (s : State)

/-- A record that is replaced by one of the same standing leaves the standings as they were. -/
theorem State.roster_withStation {n : Nat} {r : Station} (h : r.standing = (s.station n).standing) :
    (s.withStation n r).roster = s.roster := by
  rw [State.roster_eq_iff]
  refine ⟨by simp [State.roster], by simp [State.roster], by simp [State.roster], ?_⟩
  cases n with
  | zero => rfl
  | succ k =>
    refine Vector.ext fun i hi => ?_
    by_cases hik : k = i
    · subst hik
      simpa [State.withStation, State.roster, State.station, hi] using h
    · simp [State.withStation, State.roster, hik]

@[simp] theorem State.roster_answer (p : Port) (run : List Telegram) :
    (s.answer p run).roster = s.roster := rfl

@[simp] theorem State.roster_countFraming (l : Line) : (s.countFraming l).roster = s.roster := by
  cases l <;> rfl

@[simp] theorem State.roster_withMeter (n : Nat) (m : Meter) : (s.withMeter n m).roster = s.roster := by
  cases n <;> rfl

@[simp] theorem State.roster_withLease (g : Nat) (l : Option Lease) :
    (s.withLease g l).roster = s.roster := by cases g <;> rfl

@[simp] theorem State.roster_offerNtc (p : Port) : (s.offerNtc p).roster = s.roster := by
  obtain ⟨_, _, h⟩ := s.offerNtc_frame p
  rw [h]
  rfl

@[simp] theorem State.roster_request (f : NoticeFlag) (d : Detail) (p : Port) :
    (s.request f d p).roster = s.roster := by
  obtain ⟨_, _, h⟩ := s.request_frame f d p
  rw [h]
  rfl

@[simp] theorem State.roster_requestBoth (f : NoticeFlag) (d : Detail) :
    (s.requestBoth f d).roster = s.roster := by simp [State.requestBoth]

@[simp] theorem State.roster_maskChange (p : Port) : (s.maskChange p).roster = s.roster := by
  unfold State.maskChange
  split <;> rfl

@[simp] theorem State.roster_maskChangeIf (list : List ListItem) (p : Port) :
    (s.maskChangeIf list p).roster = s.roster := by
  unfold State.maskChangeIf
  split
  · exact s.roster_maskChange p
  · rfl

@[simp] theorem State.roster_supervise (p : Port) : (s.supervise p).roster = s.roster := by
  obtain ⟨_, _, _, h⟩ := s.supervise_frame p
  rw [h]
  rfl

/-- Claims that leave the roster as it was leave it so in every order (R128). -/
theorem State.roster_inSomeOrder {claims : List (State → State)}
    (h : ∀ claim ∈ claims, ∀ u : State, (claim u).roster = u.roster) :
    (s.inSomeOrder claims).roster = s.roster :=
  State.inSomeOrder_keeps (P := fun u => u.roster = s.roster) (fun _ => rfl)
    fun claim hc u hu => (h claim hc u).trans hu

theorem roster_of_mem_runClaim {p : Port} {run : List Telegram} {claim : State → State}
    (h : claim ∈ runClaim p run) (u : State) : (claim u).roster = u.roster := by
  rw [eq_answer_of_mem_runClaim h]
  rfl

@[simp] theorem State.roster_runClaim (p : Port) (run : List Telegram) :
    (s.inSomeOrder (runClaim p run)).roster = s.roster :=
  s.roster_inSomeOrder fun _ => roster_of_mem_runClaim

/-- A run of answers beside one other claim that leaves the roster as it was. -/
theorem State.roster_runClaim_and {claim : State → State}
    (h : ∀ u : State, (claim u).roster = u.roster) (p : Port) (run : List Telegram) :
    (s.inSomeOrder (runClaim p run ++ [claim])).roster = s.roster := by
  refine s.roster_inSomeOrder fun c hc => ?_
  rcases List.mem_append.1 hc with hrun | hone
  · exact roster_of_mem_runClaim hrun
  · obtain rfl := List.mem_singleton.1 hone
    exact h

@[simp] theorem State.roster_purge (sel : HeldReq → Bool) (st : RelayStatus) :
    (s.purge sel st).roster = (s.dropHeld sel).roster := by simp [State.purge]

/-- The claims of a deadline are answers and a notice (R116, R117, R104). -/
@[simp] theorem State.roster_deadlineClaims (e : Entry) (held : List HeldReq) (quarantined : Bool)
    (p : Port) : (s.inSomeOrder (deadlineClaims e held quarantined p)).roster = s.roster := by
  refine s.roster_inSomeOrder fun claim hclaim u => ?_
  unfold deadlineClaims at hclaim
  rcases List.mem_append.1 hclaim with htimeout | hrest
  · exact roster_of_mem_runClaim htimeout u
  · split at hrest
    · rcases List.mem_append.1 hrest with hpurge | hnotice
      · exact roster_of_mem_runClaim hpurge u
      · obtain rfl := List.mem_singleton.1 hnotice
        exact u.roster_request _ _ p
    · cases hrest

@[simp] theorem State.roster_routeEvt (evt : Telegram) : (s.routeEvt evt).roster = s.roster := by
  obtain ⟨_, _, _, _, h⟩ := s.routeEvt_frame evt
  rw [h]
  rfl

@[simp] theorem State.roster_unmatchedRsp (rsp : Telegram) : (s.unmatchedRsp rsp).roster = s.roster := by
  unfold State.unmatchedRsp
  dsimp only
  split
  · exact (s.countField .unmatched).roster_withStation rfl
  · rfl

@[simp] theorem State.roster_storeReport (op : StoreOp) (st : MgtStatus) (data : List Byte)
    (f : NoticeFlag) : (s.storeReport op st data f).roster = s.roster := by
  have hclaims := s.roster_inSomeOrder
    (claims := [State.answer op.port [mga op.source op.tag op.kind.opCode st data],
      State.request f .nothing op.port])
    (by simp)
  rw [State.storeReport, State.roster_request, hclaims]

@[simp] theorem State.roster_deliver (p : Port) (t : Telegram) : (s.deliver p t).roster = s.roster := by
  have hoffer (u : State) (m : Mgt) : (u.offerMgt m).roster = u.roster := by
    rw [State.offerMgt, State.touchSession_eq]
    split <;> rfl
  unfold State.deliver
  split
  case h_1 => split <;> rfl
  case h_2 =>
    split
    · exact hoffer _ _
    · rfl
  all_goals rfl

/-- CLEAR_COUNTERS clears the totals of the stations and leaves their standings (R160). -/
theorem State.roster_clearCounters : s.clearCounters.roster = s.roster :=
  State.roster_eq_iff.2 ⟨rfl, rfl, rfl, by rw [State.clearCounters, Vector.map_map]; rfl⟩

end Roster

/-! ### The invariant on a roster -/

section Invariant
variable {s t : State}

/-- The record of a field station that is replaced, and the records of the others. -/
theorem State.station_withStation_of_fieldStation (s : State) {n : Byte} (hn : isFieldStation n = true)
    (r : Station) (k : Byte) :
    (s.withStation n.toNat r).station k.toNat = if k = n then r else s.station k.toNat := by
  obtain ⟨hlow, hhigh⟩ := (isFieldStation_iff n).1 hn
  simp [State.station_withStation, hlow, hhigh, BitVec.toNat_inj]

/-- Requests that leave the hold queue, under the same transactions and standings, break nothing. -/
theorem State.StationsOk.of_roster (hs : s.StationsOk) (hheld : t.roster.held ⊆ s.roster.held)
    (h : t.roster = { s.roster with held := t.roster.held }) : t.StationsOk := by
  obtain ⟨-, htags, hbusy, hstandings⟩ := State.roster_eq_iff.1 h
  replace htags : t.entries.map Entry.relayTag = s.entries.map Entry.relayTag := htags
  replace hbusy : t.entries.map Entry.station = s.entries.map Entry.station := hbusy
  have hstanding := State.standing_congr hstandings
  have hbusy' (n : Byte) : (∃ e ∈ t.entries, e.station = n) ↔ ∃ e ∈ s.entries, e.station = n := by
    simp only [← List.mem_map, hbusy]
  have hheld' (r : HeldReq) (hr : r ∈ t.held) : ∃ r' ∈ s.held, r'.station = r.station :=
    List.mem_map.1 (hheld (List.mem_map_of_mem hr))
  refine ⟨?few, htags ▸ hs.tags, hbusy ▸ hs.apart, fun e he => ?named, fun r hr => ?heldFor,
    fun n hn => ?busy, fun n hn => ?hold, fun r hr => ?receivable, fun n hn => ?streak⟩
  case few =>
    have hlength := congrArg List.length hbusy
    simp only [List.length_map] at hlength
    exact hlength ▸ hs.few
  case named =>
    obtain ⟨e', he', heq⟩ := (hbusy' e.station).1 ⟨e, he, rfl⟩
    exact heq ▸ hs.named e' he'
  case heldFor =>
    obtain ⟨r', hr', heq⟩ := hheld' r hr
    exact heq ▸ hs.heldFor r' hr'
  case busy =>
    obtain ⟨hstate, _, _⟩ := hstanding n.toNat
    rw [hstate, hbusy']
    exact hs.busy n hn
  case hold =>
    obtain ⟨hstate, _, htimer⟩ := hstanding n.toNat
    rw [hstate, htimer]
    exact hs.hold n hn
  case receivable =>
    obtain ⟨r', hr', heq⟩ := hheld' r hr
    obtain ⟨hstate, _, _⟩ := hstanding r.station.toNat
    rw [hstate, ← heq]
    exact hs.receivable r' hr'
  case streak =>
    obtain ⟨_, hstreak, _⟩ := hstanding n.toNat
    rw [hstreak]
    exact hs.streak n hn

/-- The invariant reads the roster alone. -/
theorem State.StationsOk.congr (hs : s.StationsOk) (h : t.roster = s.roster) : t.StationsOk :=
  hs.of_roster (h ▸ List.Subset.refl _) (by rw [h])

/-- A purge takes requests out of the hold queue (R102). -/
theorem State.StationsOk.dropHeld (hs : s.StationsOk) (sel : HeldReq → Bool) :
    (s.dropHeld sel).StationsOk :=
  hs.of_roster (List.map_subset _ List.filter_sublist.subset) rfl

/-- A request that joins the hold queue is for a field station that is not QUARANTINED (R62, R67). -/
theorem State.StationsOk.admitted (hs : s.StationsOk) {r : HeldReq}
    (hstation : isFieldStation r.station = true)
    (hopen : (s.station r.station.toNat).state ≠ .quarantined) (hheld : t.held = s.held ++ [r])
    (h : t.roster = { s.roster with held := t.roster.held }) : t.StationsOk := by
  obtain ⟨_, hentries⟩ := State.roster_eq_iff.1 h
  have hrest : ({ t with held := s.held } : State).StationsOk :=
    hs.of_roster (List.Subset.refl _) (State.roster_eq_iff.2 ⟨rfl, hentries⟩)
  obtain ⟨_, _, hstandings⟩ := hentries
  obtain ⟨hstate, _, _⟩ := State.standing_congr hstandings r.station.toNat
  have hmem {q : HeldReq} (hq : q ∈ t.held) : q ∈ s.held ∨ q = r := by
    simpa [hheld] using hq
  refine { hrest with heldFor := fun q hq => ?_, receivable := fun q hq => ?_ }
  · rcases hmem hq with hold | rfl
    · exact hs.heldFor q hold
    · exact hstation
  · rcases hmem hq with hold | rfl
    · exact hrest.receivable q hold
    · exact hstate ▸ hopen

/-- The record of station `n` is replaced, and at most the transaction of that station comes or goes: what has
to be said of the transactions and of the new record. -/
theorem State.StationsOk.replaced (hs : s.StationsOk) {n : Byte} {r : Station}
    (hn : isFieldStation n = true) (hstations : t.stations = (s.withStation n.toNat r).stations)
    (hheld : t.held ⊆ s.held) (hfew : t.entries.length ≤ 16) (htags : (t.entries.map Entry.relayTag).Nodup)
    (hapart : (t.entries.map Entry.station).Nodup)
    (hothers : ∀ k, k ≠ n → ((∃ e ∈ t.entries, e.station = k) ↔ ∃ e ∈ s.entries, e.station = k))
    (hbusy : r.state = .busy ↔ ∃ e ∈ t.entries, e.station = n)
    (hhold : r.state = .quarantined ↔ r.hold.isSome)
    (hopen : r.state = .quarantined → ∀ q ∈ t.held, q.station ≠ n) (hstreak : r.streak ≤ 15) :
    t.StationsOk := by
  have hrecord (k : Byte) : t.station k.toNat = if k = n then r else s.station k.toNat := by
    rw [← s.station_withStation_of_fieldStation hn r k]
    cases k.toNat <;> simp [State.station, hstations]
  refine ⟨hfew, htags, hapart, fun e he => ?named, fun q hq => hs.heldFor q (hheld hq), fun k hk => ?busy,
    fun k hk => ?hold, fun q hq => ?receivable, fun k hk => ?streak⟩
  case named =>
    by_cases hsame : e.station = n
    · exact hsame ▸ hn
    · obtain ⟨e', he', heq⟩ := (hothers _ hsame).1 ⟨e, he, rfl⟩
      exact heq ▸ hs.named e' he'
  all_goals rw [hrecord]; split
  case busy.isTrue hsame => exact hsame ▸ hbusy
  case busy.isFalse hother => exact (hs.busy k hk).trans (hothers k hother).symm
  case hold.isTrue => exact hhold
  case hold.isFalse => exact hs.hold k hk
  case receivable.isTrue hsame => exact fun hquarantined => hopen hquarantined q hq hsame
  case receivable.isFalse => exact hs.receivable q (hheld hq)
  case streak.isTrue => exact hstreak
  case streak.isFalse => exact hs.streak k hk

/-- A QUARANTINED station returns (R119, R120). -/
theorem State.StationsOk.returned (hs : s.StationsOk) {n : Byte} (hn : isFieldStation n = true)
    (hquarantined : (s.station n.toNat).state = .quarantined) :
    (s.withStation n.toNat (s.station n.toNat).returned).StationsOk := by
  have hentries := s.withStation_entries n.toNat (s.station n.toNat).returned
  have hidle : ¬∃ e ∈ s.entries, e.station = n := by
    rw [← hs.busy n hn, hquarantined]
    exact nofun
  refine hs.replaced hn rfl (by simp) (hentries ▸ hs.few) (hentries ▸ hs.tags) (hentries ▸ hs.apart)
    (fun k _ => by rw [hentries]) ?_ (by simp [Station.returned]) nofun (Nat.zero_le _)
  rw [hentries]
  exact iff_of_false nofun hidle

/-- A transaction ends, and its station is left IDLE or QUARANTINED (R113, R116, R117). -/
theorem State.StationsOk.ended (hs : s.StationsOk) {e : Entry} {r : Station} (he : e ∈ s.entries)
    (hstations : t.stations = (s.withStation e.station.toNat r).stations)
    (hentries : t.entries = s.entries.erase e) (hheld : t.held ⊆ s.held) (hidle : r.state ≠ .busy)
    (hhold : r.state = .quarantined ↔ r.hold.isSome)
    (hopen : r.state = .quarantined → ∀ q ∈ t.held, q.station ≠ e.station) (hstreak : r.streak ≤ 15) :
    t.StationsOk := by
  have hless : t.entries.Sublist s.entries := hentries ▸ List.erase_sublist
  have hgone : ¬∃ e' ∈ t.entries, e'.station = e.station := by
    have hperm := (List.perm_cons_erase he).map Entry.station
    have hapart := hperm.nodup_iff.1 hs.apart
    rw [List.map_cons, List.nodup_cons] at hapart
    simpa only [hentries, List.mem_map] using hapart.1
  refine hs.replaced (hs.named e he) hstations hheld (hless.length_le.trans hs.few)
    (hs.tags.sublist (hless.map _)) (hs.apart.sublist (hless.map _)) (fun k hk => ?_)
    (iff_of_false hidle hgone) hhold hopen hstreak
  refine exists_congr fun e' => and_congr_left fun hstation => ?_
  have hne : e' ≠ e := by
    rintro rfl
    exact hk hstation.symm
  rw [hentries, List.mem_erase_of_ne hne]

/-- A dispatch makes a held request for an IDLE station a transaction under a free tag (R96, R109, R110). -/
theorem State.StationsOk.dispatched (hs : s.StationsOk) {r : HeldReq} (hr : r ∈ s.held)
    (hidle : (s.station r.station.toNat).state = .idle) (hroom : s.entries.length < 16) :
    (s.dispatchReq r).StationsOk := by
  have hn := hs.heldFor r hr
  have hentries : (s.dispatchReq r).entries
      = s.entries ++ [r.entry (allocTag s.entries 16 s.tagCounter)] := rfl
  have hfree : ¬∃ e ∈ s.entries, e.station = r.station := by
    rw [← hs.busy _ hn, hidle]
    exact nofun
  have htag : ∀ e ∈ s.entries, e.relayTag ≠ allocTag s.entries 16 s.tagCounter := by
    obtain ⟨_, _, htag, hfresh, _⟩ := allocTag_free s.tagCounter hroom
    exact htag ▸ hfresh
  refine hs.replaced (r := { s.station r.station.toNat with state := .busy }) hn rfl
    List.erase_sublist.subset ?_ ?_ ?_ (fun k hk => ?_) (iff_of_true rfl ?_) ?_ nofun (hs.streak _ hn)
  · rw [hentries, List.length_append]
    exact hroom
  · simpa [hentries, HeldReq.entry] using hs.tags.concat (a := allocTag s.entries 16 s.tagCounter)
      (by simpa using htag)
  · simpa [hentries, HeldReq.entry] using hs.apart.concat (a := r.station) (by simpa using hfree)
  · have hnew (tag : Byte) : (r.entry tag).station ≠ k := hk.symm
    simp [hentries, or_and_right, exists_or, hnew]
  · exact ⟨_, by rw [hentries]; exact List.mem_append_right _ (List.mem_singleton_self _), rfl⟩
  · have hstopped : ¬(s.station r.station.toNat).hold.isSome = true := by
      rw [← hs.hold _ hn, hidle]
      exact nofun
    exact iff_of_false nofun hstopped

/-- No transaction and every station as a return leaves it (R107, R124, R125). -/
theorem State.StationsOk.cleared (hentries : t.entries = [])
    (hheld : ∀ q ∈ t.held, isFieldStation q.station = true)
    (hrecord : ∀ n, ∃ r : Station, t.station n = r.returned) : t.StationsOk := by
  have hidle (n : Nat) : (t.station n).state = .idle ∧ (t.station n).hold = none
      ∧ (t.station n).streak = 0 := by
    obtain ⟨r, hr⟩ := hrecord n
    rw [hr]
    exact ⟨rfl, rfl, rfl⟩
  refine ⟨?_, ?_, ?_, ?_, hheld, fun n _ => ?_, fun n _ => ?_, fun q _ => ?_, fun n _ => ?_⟩
  · simp [hentries]
  · simp [hentries]
  · simp [hentries]
  · simp [hentries]
  · simp [hentries, (hidle n.toNat).1]
  · simp [(hidle n.toNat).1, (hidle n.toNat).2.1]
  · simp [(hidle q.station.toNat).1]
  · simp [(hidle n.toNat).2.2]

/-! ### Commands under their frames -/

theorem State.StationsOk.of_whenRunning {f : State → State} (hs : s.StationsOk)
    (h : s.whenRunning f = .next t) (hf : (f s).StationsOk) : t.StationsOk := by
  rcases State.whenRunning_cases h with rfl | rfl
  · exact hf
  · exact hs

theorem State.StationsOk.of_whenMgt {takes : Byte → Bool} {f : Mgt → State → State} (hs : s.StationsOk)
    (h : s.whenMgt takes f = .next t) (hf : ∀ m, (f m s).StationsOk) : t.StationsOk := by
  rcases State.whenMgt_cases h with ⟨m, _, _, _, _, _, rfl⟩ | rfl
  · exact hf m
  · exact hs

theorem State.StationsOk.of_whenOp {code : Byte} {len : Nat} {f : Mgt → State → State} (hs : s.StationsOk)
    (h : s.whenOp code len f = .next t) (hf : ∀ m, (f m s).StationsOk) : t.StationsOk := by
  refine hs.of_whenMgt h fun m => ?_
  split
  · exact hf m
  · exact hs.congr rfl

theorem State.StationsOk.of_whenOwner (hs : s.StationsOk) (m : Mgt) {f : Session → State}
    (hf : ∀ x, (f x).StationsOk) : (s.whenOwner m f).StationsOk := by
  rcases s.whenOwner_cases m f with ⟨_, h⟩ | ⟨_, _, _, h⟩ | ⟨x, _, _, h⟩
  · exact h ▸ hs.congr rfl
  · exact h ▸ hs.congr rfl
  · exact h ▸ hf x

theorem State.StationsOk.of_whenRestarting {due : RestartRun → Bool} {f : RestartRun → State → State}
    (hs : s.StationsOk) (h : s.whenRestarting due f = .next t) (hf : ∀ r, (f r s).StationsOk) :
    t.StationsOk := by
  rcases State.whenRestarting_cases h with ⟨r, _, _, _, rfl⟩ | rfl
  · exact hf r
  · exact hs

end Invariant

section Commands
variable {s t : State}

/-! ### Supply, RESET_N and the load -/

/-- What is left of the stations when the relay is held: their totals (R174, Table 10-5). -/
theorem State.lost_stationsOk (s : State) : s.lost.StationsOk :=
  .cleared rfl nofun fun n => ⟨s.station n, State.station_of_map (f := Station.returned) rfl rfl n⟩

theorem State.clearKept_lost_stationsOk (s : State) : s.lost.clearKept.StationsOk :=
  .cleared rfl nofun fun n => ⟨.fresh, State.station_of_fresh rfl n⟩

theorem powerOn_stationsOk (hs : s.StationsOk) (h : execPowerOn s = .next t) : t.StationsOk := by
  simp only [execPowerOn, Host.Outcome.next.injEq] at h
  subst h
  refine hs.congr ?_
  split
  · rfl
  · split <;> rfl

theorem powerFail_stationsOk (hs : s.StationsOk) (h : execPowerFail s = .next t) : t.StationsOk := by
  simp only [execPowerFail, Host.Outcome.next.injEq] at h
  subst h
  split
  · exact s.clearKept_lost_stationsOk.congr rfl
  · exact hs

theorem resetNFall_stationsOk (hs : s.StationsOk) (h : execResetNFall s = .next t) : t.StationsOk := by
  simp only [execResetNFall, Host.Outcome.next.injEq] at h
  subst h
  split
  · exact hs
  · split
    · exact s.lost_stationsOk.congr rfl
    · exact hs.congr rfl

theorem pinReset_stationsOk (hs : s.StationsOk) (h : execPinReset s = .next t) : t.StationsOk := by
  simp only [execPinReset, Host.Outcome.next.injEq] at h
  subst h
  refine hs.congr ?_
  split
  · rfl
  · split <;> rfl

theorem startUpLoadEnd_stationsOk (hs : s.StationsOk) (h : execStartUpLoadEnd s = .next t) :
    t.StationsOk := by
  simp only [execStartUpLoadEnd, Host.Outcome.next.injEq] at h
  subst h
  split
  case h_1 cause _ =>
    have hkept : (s.keptBy cause).StationsOk := by
      cases cause
      · exact s.clearKept_lost_stationsOk
      · exact s.lost_stationsOk
      · exact s.lost_stationsOk
    exact hkept.congr (State.roster_requestBoth _ _ _)
  all_goals exact hs

/-! ### Links -/

theorem framingError_stationsOk {l : Line} {x : Character} (hs : s.StationsOk)
    (h : execFramingError l x s = .next t) : t.StationsOk := by
  refine hs.of_whenRunning h (hs.congr ?_)
  split
  · exact State.roster_countFraming _ l
  all_goals rfl

theorem characterReceived_stationsOk {l : Line} {x : Character} (hs : s.StationsOk)
    (h : execCharacterReceived l x s = .next t) : t.StationsOk := by
  refine hs.of_whenRunning h (hs.congr ?_)
  split <;> rfl

theorem frameGapPause_stationsOk {l : Line} (hs : s.StationsOk) (h : execFrameGapPause l s = .next t) :
    t.StationsOk := by
  refine hs.of_whenRunning h (hs.congr ?_)
  dsimp only
  split
  · rfl
  all_goals exact State.roster_countFraming _ l

theorem controlTelegram_stationsOk {p : Port} {last : Byte} (hs : s.StationsOk)
    (h : execControlTelegram p last s = .next t) : t.StationsOk := by
  refine hs.of_whenRunning h (hs.congr ?_)
  split
  · rw [State.takeTelegram, State.roster_deliver, State.roster_supervise]
    rfl
  all_goals rfl

theorem silenceTimerExpiry_stationsOk {x : SilenceStep} (hs : s.StationsOk)
    (h : execSilenceTimerExpiry x s = .next t) : t.StationsOk := by
  refine hs.of_whenRunning h (hs.congr ?_)
  cases x with
  | expiry p => simp only [State.fallSilent]; split <;> rfl
  | notice p =>
    simp only [State.notePeerDown]
    split
    · rfl
    · exact State.roster_request _ _ _ _

/-! ### Field telegrams -/

/-- A sign of life returns its station at most (R119). -/
theorem State.StationsOk.signOfLife (hs : s.StationsOk) (telegram : Telegram) :
    (s.signOfLife telegram).StationsOk := by
  unfold State.signOfLife
  split
  case isTrue hreturns =>
    obtain ⟨hn, hquarantined⟩ : isFieldStation telegram.source = true
        ∧ (s.station telegram.source.toNat).state = .quarantined := by
      simpa [State.returnsStation] using hreturns
    exact (hs.returned hn hquarantined).congr (State.roster_requestBoth _ _ _)
  case isFalse => exact hs

/-- The answer to a transaction ends it, and an unmatched one changes no standing (R113, R114). -/
theorem State.StationsOk.takeRsp (hs : s.StationsOk) (rsp : Telegram) : (s.takeRsp rsp).StationsOk := by
  unfold State.takeRsp
  split
  case h_1 e hfind =>
    have he := List.mem_of_find?_eq_some hfind
    have hn := hs.named e he
    have hbusy : (s.station e.station.toNat).state = .busy := (hs.busy _ hn).2 ⟨e, he, rfl⟩
    have hstopped : ¬(s.station e.station.toNat).hold.isSome = true := by
      rw [← hs.hold _ hn, hbusy]
      exact nofun
    have hends : ({ s with entries := s.entries.erase e }.withStation e.station.toNat
        { s.station e.station.toNat with state := .idle, streak := 0 }).StationsOk := by
      refine hs.ended (r := { s.station e.station.toNat with state := .idle, streak := 0 }) he ?_
        (by simp) (by simp) nofun (iff_of_false nofun hstopped) nofun (Nat.zero_le _)
      simp only [State.withStation_of_fieldStation _ hn]
    exact hends.congr rfl
  case h_2 => exact hs.congr (State.roster_unmatchedRsp _ _)

theorem fieldTelegram_stationsOk {last : Byte} (hs : s.StationsOk)
    (h : execFieldTelegram last s = .next t) : t.StationsOk := by
  refine hs.of_whenRunning h ?_
  split
  case h_1 telegram _ =>
    have hcounted : ((s.withAssembly .field (.hunt false)).countField .telegramsIn).StationsOk :=
      hs.congr rfl
    have hheard := hcounted.signOfLife telegram
    unfold State.takeFieldTelegram
    dsimp only
    split
    · split
      · exact hheard.takeRsp telegram
      · exact hheard.congr rfl
    · exact hheard.congr (State.roster_routeEvt _ _)
    all_goals exact hheard.congr rfl
  all_goals exact hs

/-! ### Screening and the dispatch of requests -/

/-- Checks 4 and 10 have passed for a request that is admitted (R62, R67). -/
theorem State.screen_admits_station {p : Port} {telegram : Telegram} {r : HeldReq} {meter : Nat}
    (h : s.screen p telegram = .admitted r meter) :
    isFieldStation r.station = true ∧ (s.station r.station.toNat).state ≠ .quarantined := by
  obtain ⟨hnew, _⟩ := State.screen_admitted h
  obtain ⟨st, hrefused, _⟩ | ⟨hpasses, e, op, _, _, hadmitted⟩ :=
    State.screen_cases (mt (s.isDuplicate_iff p telegram).2 hnew)
  · cases hrefused.symm.trans h
  · obtain rfl : heldOf p telegram op e = r := (Verdict.admitted.inj (hadmitted.symm.trans h)).1
    have hrows : ∀ row ∈ s.checks p telegram, ¬row.1 = true := by
      simpa [State.refusal] using hpasses
    have hdest := hrows (telegram.dest.toNat = 0 || 62 < telegram.dest.toNat, 0x87) (by simp [State.checks])
    have hopen := hrows ((s.station telegram.dest.toNat).state = .quarantined, 0x88)
      (by simp [State.checks])
    refine ⟨(isFieldStation_iff _).2 ?_, by simpa [heldOf] using hopen⟩
    simp only [Bool.or_eq_true, decide_eq_true_eq] at hdest
    exact ⟨by simp only [heldOf]; omega, by simp only [heldOf]; omega⟩

theorem screening_stationsOk {x : ScreeningStep} (hs : s.StationsOk) (h : execScreening x s = .next t) :
    t.StationsOk := by
  refine hs.of_whenRunning h ?_
  cases x with
  | judge p =>
    dsimp only [State.judgeFirst]
    split
    · exact hs
    case h_2 telegram rest _ =>
      cases hverdict : s.screen p telegram with
      | absorbed => exact hs.congr rfl
      | refused st => exact hs.congr rfl
      | admitted r meter =>
        obtain ⟨hstation, hopen⟩ := State.screen_admits_station hverdict
        dsimp only [State.conclude, State.admission]
        rw [State.takeToken_eq]
        exact hs.admitted hstation hopen rfl rfl
  | place p => exact hs.congr rfl
  | release p => exact hs.congr rfl

theorem dispatch_stationsOk (hs : s.StationsOk) (h : execDispatch s = .next t) : t.StationsOk := by
  refine hs.of_whenRunning h ?_
  split
  · exact hs
  case h_2 pick hpick =>
    obtain ⟨i, hget, hidle, _, hroom, _⟩ := State.mem_eligible.1 (State.mem_eligible_of_arbiter hpick)
    have hreq := hs.dispatched (List.mem_of_getElem? hget) hidle hroom
    split
    · exact hreq.congr rfl
    · exact hreq

theorem hitCountRaise_stationsOk {station : Byte} {block : Nat} (hs : s.StationsOk)
    (h : execHitCountRaise station block s = .next t) : t.StationsOk := by
  refine hs.of_whenRunning h (hs.congr ?_)
  dsimp only
  split <;> rfl

theorem meterRefill_stationsOk {n : Nat} (hs : s.StationsOk) (h : execMeterRefill n s = .next t) :
    t.StationsOk := by
  refine hs.of_whenRunning h (hs.congr ?_)
  split
  · rfl
  · split
    · rfl
    · exact State.roster_withMeter _ _ _

theorem isolatedPurge_stationsOk (hs : s.StationsOk) (h : execIsolatedPurge s = .next t) :
    t.StationsOk := by
  refine hs.of_whenRunning h ?_
  split
  · exact hs
  · exact (hs.dropHeld fun _ => true).congr (State.roster_purge _ _ _)

/-! ### Transactions and stations -/

theorem fieldTransmissionEnd_stationsOk (hs : s.StationsOk) (h : execFieldTransmissionEnd s = .next t) :
    t.StationsOk := by
  refine hs.of_whenRunning h (hs.congr ?_)
  split
  case h_1 a _ =>
    have htag : Entry.relayTag ∘ Entry.sent a = Entry.relayTag := by
      funext e
      simp only [Function.comp, Entry.sent]
      split <;> rfl
    have hstation : Entry.station ∘ Entry.sent a = Entry.station := by
      funext e
      simp only [Function.comp, Entry.sent]
      split <;> rfl
    rw [State.roster_eq_iff, List.map_map, htag, List.map_map, hstation]
    exact ⟨rfl, rfl, rfl, rfl⟩
  all_goals rfl

/-- A deadline ends its transaction, and a quarantine the held requests for its station (R116, R104). -/
theorem deadline_stationsOk {tag : Byte} (hs : s.StationsOk) (h : execDeadline tag s = .next t) :
    t.StationsOk := by
  refine hs.of_whenRunning h ?_
  split
  · exact hs
  case h_2 e due hfound =>
    have he := State.mem_of_waitingEntry hfound
    have hn := hs.named e he
    have hreached : (s.reach due).StationsOk := hs.congr rfl
    refine State.StationsOk.congr ?_
      ((State.roster_deadlineClaims _ _ _ _ _).trans (State.roster_deadlineClaims _ _ _ _ _))
    have hbusy : ((s.reach due).station e.station.toNat).state = .busy :=
      (hreached.busy _ hn).2 ⟨e, he, rfl⟩
    have hstopped : ¬((s.reach due).station e.station.toNat).hold.isSome = true := by
      rw [← hreached.hold _ hn, hbusy]
      exact nofun
    rcases Nat.lt_or_ge (min 15 (((s.reach due).station e.station.toNat).streak + 1))
      (s.reach due).settings.quarantineLimit with hbelow | hlimit
    · rw [Station.timedOut_of_lt hbelow]
      exact hreached.ended he rfl rfl (List.Subset.refl _) nofun (iff_of_false nofun hstopped) nofun
        (Nat.min_le_left _ _)
    · rw [Station.timedOut_of_le hlimit]
      exact hreached.ended he rfl rfl List.filter_sublist.subset nofun (iff_of_true rfl rfl)
        (fun _ q hq => by simpa using (List.mem_filter.1 hq).2) (Nat.min_le_left _ _)

/-- A hold timer that runs is that of a station 1 to 62 (R118). -/
theorem State.station_range_of_hold {n due : Nat} (h : (s.station n).hold = some due) : 1 ≤ n ∧ n ≤ 62 := by
  cases n with
  | zero => cases h
  | succ k =>
    refine ⟨k.succ_pos, ?_⟩
    by_contra hbeyond
    have hnone : s.stations[k]? = none := Vector.getElem?_eq_none (by omega)
    simp [State.station, hnone, Station.fresh] at h

theorem holdTimerExpiry_stationsOk {n : Nat} (hs : s.StationsOk) (h : execHoldTimerExpiry n s = .next t) :
    t.StationsOk := by
  refine hs.of_whenRunning h ?_
  split
  · exact hs
  case h_2 due hdue =>
    obtain ⟨h1, h62⟩ := State.station_range_of_hold hdue
    have hbyte : (BitVec.ofNat 8 n).toNat = n := by
      rw [BitVec.toNat_ofNat]
      omega
    obtain ⟨b, rfl⟩ : ∃ b : Byte, b.toNat = n := ⟨_, hbyte⟩
    have hn : isFieldStation b = true := (isFieldStation_iff b).2 ⟨h1, h62⟩
    have hreached : (s.reach due).StationsOk := hs.congr rfl
    have hrecord : (s.reach due).station b.toNat = s.station b.toNat := by
      cases b.toNat <;> rfl
    have hquarantined : ((s.reach due).station b.toNat).state = .quarantined := by
      rw [hreached.hold b hn, hrecord, hdue]
      rfl
    rw [← hrecord]
    exact (hreached.returned hn hquarantined).congr (State.roster_requestBoth _ _ _)

/-! ### The lease groups -/

theorem leaseTake_stationsOk (hs : s.StationsOk) (h : execLeaseTake s = .next t) : t.StationsOk := by
  refine hs.of_whenOp h fun m => hs.congr ?_
  split
  · dsimp only
    split
    · rfl
    · split
      · split
        · exact State.roster_withLease _ _ _
        · rfl
      · exact State.roster_withLease _ _ _
  · rfl

theorem leaseRenew_stationsOk (hs : s.StationsOk) (h : execLeaseRenew s = .next t) : t.StationsOk := by
  refine hs.of_whenOp h fun m => hs.congr ?_
  split
  · split
    · rfl
    · split
      · split
        · exact State.roster_withLease _ _ _
        · rfl
      · rfl
  · rfl

/-- A loss of a group drops the requests that stood under it (R88). -/
theorem State.StationsOk.loseGroup (hs : s.StationsOk) (p : Port) (g : Nat) :
    (s.loseGroup p g).StationsOk :=
  (hs.congr (State.roster_withLease s g none)).dropHeld _

theorem leaseRelease_stationsOk (hs : s.StationsOk) (h : execLeaseRelease s = .next t) : t.StationsOk := by
  refine hs.of_whenOp h fun m => ?_
  have hfree : s.freeSlot.StationsOk := hs.congr rfl
  split
  case h_1 g _ =>
    split
    · exact hs.congr rfl
    · split
      · split
        · exact (hfree.loseGroup m.port g.toNat).congr
            (State.roster_runClaim_and _ (fun u => u.roster_answer _ _) _ _)
        · exact hs.congr rfl
      · exact hs.congr rfl
  case h_2 => exact hs.congr rfl

theorem leaseExpiry_stationsOk {g : Nat} (hs : s.StationsOk) (h : execLeaseExpiry g s = .next t) :
    t.StationsOk := by
  refine hs.of_whenRunning h ?_
  split
  · exact hs
  case h_2 l _ =>
    have hreached : (s.reach l.expiry).StationsOk := hs.congr rfl
    exact (hreached.loseGroup l.holder g).congr
      (State.roster_runClaim_and _ (fun u => u.roster_request _ _ _) _ _)

theorem leaseReleaseOnLinkDown_stationsOk {p : Port} (hs : s.StationsOk)
    (h : execLeaseReleaseOnLinkDown p s = .next t) : t.StationsOk := by
  refine hs.of_whenRunning h ?_
  split
  · exact hs
  · dsimp only
    split
    · exact hs.congr rfl
    · refine (hs.dropHeld (·.lostWithAny p (s.groupsOf p))).congr ?_
      rw [State.roster_runClaim_and _ fun u => u.roster_request _ _ _]
      rfl

/-! ### Output units, notices and the session -/

theorem portSendEnd_stationsOk {p : Port} (hs : s.StationsOk) (h : execPortSendEnd p s = .next t) :
    t.StationsOk := by
  refine hs.of_whenRunning h (hs.congr ?_)
  split <;> rfl

theorem noticeRepeatExpiry_stationsOk {p : Port} (hs : s.StationsOk)
    (h : execNoticeRepeatExpiry p s = .next t) : t.StationsOk := by
  refine hs.of_whenRunning h (hs.congr ?_)
  split
  · rfl
  · dsimp only
    split
    · exact State.roster_offerNtc _ _
    · rfl

theorem sessionClose_stationsOk (hs : s.StationsOk) (h : execSessionClose s = .next t) : t.StationsOk :=
  hs.of_whenOp h fun m => hs.of_whenOwner m fun _ => hs.congr rfl

theorem noticeAck_stationsOk (hs : s.StationsOk) (h : execNoticeAck s = .next t) : t.StationsOk := by
  refine hs.of_whenOp h fun m => hs.congr ?_
  split <;> rfl

theorem sessionOpen_stationsOk (hs : s.StationsOk) (h : execSessionOpen s = .next t) : t.StationsOk := by
  refine hs.of_whenOp h fun m => hs.congr ?_
  split
  · split
    · rfl
    · split
      · split
        · rfl
        · split <;> rfl
      · split <;> rfl
  · rfl

theorem sessionIdleExpiry_stationsOk (hs : s.StationsOk) (h : execSessionIdleExpiry s = .next t) :
    t.StationsOk := by
  refine hs.of_whenRunning h (hs.congr ?_)
  split
  · rfl
  · exact State.roster_request _ _ _ _

theorem sessionEndOnLinkDown_stationsOk {p : Port} (hs : s.StationsOk)
    (h : execSessionEndOnLinkDown p s = .next t) : t.StationsOk := by
  refine hs.of_whenRunning h (hs.congr ?_)
  split
  · rfl
  · dsimp only
    split
    · split
      · exact State.roster_request _ _ _ _
      · rfl
    · rfl

/-! ### The change list -/

/-- A stage operation changes the session at most (R151, R152). -/
theorem State.StationsOk.stageParsed (hs : s.StationsOk) (m : Mgt) (item : Option ListItem) :
    (s.stageParsed m item).StationsOk := by
  refine hs.of_whenOwner m fun x => hs.congr ?_
  split
  · rfl
  · unfold State.stage
    split
    · rfl
    · split <;> rfl

theorem stageConfig_stationsOk (hs : s.StationsOk) (h : execStageConfig s = .next t) : t.StationsOk :=
  hs.of_whenOp h fun m => hs.stageParsed m _

theorem stageAdd_stationsOk (hs : s.StationsOk) (h : execStageAdd s = .next t) : t.StationsOk :=
  hs.of_whenOp h fun m => hs.stageParsed m _

theorem stageModify_stationsOk (hs : s.StationsOk) (h : execStageModify s = .next t) : t.StationsOk :=
  hs.of_whenOp h fun m => hs.stageParsed m _

theorem stageDelete_stationsOk (hs : s.StationsOk) (h : execStageDelete s = .next t) : t.StationsOk :=
  hs.of_whenOp h fun m => hs.stageParsed m _

theorem discard_stationsOk (hs : s.StationsOk) (h : execDiscard s = .next t) : t.StationsOk :=
  hs.of_whenOp h fun m => hs.of_whenOwner m fun _ => hs.congr rfl

theorem apply_stationsOk (hs : s.StationsOk) (h : execApply s = .next t) : t.StationsOk := by
  refine hs.of_whenOp h fun m => hs.of_whenOwner m fun x => hs.congr ?_
  split
  · rfl
  · split
    · rfl
    · split
      · rfl
      case h_2 w _ =>
        have heffect : (s.takeEffect x w).roster = s.roster := by
          rw [State.takeEffect, State.roster_maskChangeIf, State.roster_maskChangeIf]
          rfl
        exact heffect

theorem listRead_stationsOk (hs : s.StationsOk) (h : execListRead s = .next t) : t.StationsOk := by
  refine hs.of_whenOp h fun m => hs.of_whenOwner m fun x => hs.congr ?_
  split
  · split
    · rfl
    · split <;> rfl
  · rfl

/-! ### The reads and the mode -/

theorem unknownOp_stationsOk (hs : s.StationsOk) (h : execUnknownOp s = .next t) : t.StationsOk :=
  hs.of_whenMgt h fun _ => hs.congr rfl

theorem echo_stationsOk (hs : s.StationsOk) (h : execEcho s = .next t) : t.StationsOk :=
  hs.of_whenMgt h fun _ => hs.congr rfl

theorem leaseStatus_stationsOk (hs : s.StationsOk) (h : execLeaseStatus s = .next t) : t.StationsOk :=
  hs.of_whenOp h fun _ => hs.congr rfl

theorem readStore_stationsOk (hs : s.StationsOk) (h : execReadStore s = .next t) : t.StationsOk :=
  hs.of_whenOp h fun _ => hs.congr rfl

theorem readConfig_stationsOk (hs : s.StationsOk) (h : execReadConfig s = .next t) : t.StationsOk := by
  refine hs.of_whenOp h fun m => hs.congr ?_
  split
  · split <;> rfl
  · rfl

theorem readEntry_stationsOk (hs : s.StationsOk) (h : execReadEntry s = .next t) : t.StationsOk := by
  refine hs.of_whenOp h fun m => hs.congr ?_
  split
  · rfl
  · split <;> rfl

theorem readBucket_stationsOk (hs : s.StationsOk) (h : execReadBucket s = .next t) : t.StationsOk := by
  refine hs.of_whenOp h fun m => hs.congr ?_
  split
  · split <;> rfl
  · rfl

theorem readStation_stationsOk (hs : s.StationsOk) (h : execReadStation s = .next t) : t.StationsOk := by
  refine hs.of_whenOp h fun m => hs.congr ?_
  split
  · split <;> rfl
  · rfl

theorem readCounters_stationsOk (hs : s.StationsOk) (h : execReadCounters s = .next t) : t.StationsOk := by
  refine hs.of_whenOp h fun m => hs.congr ?_
  split
  · split <;> rfl
  · rfl

theorem clearCounters_stationsOk (hs : s.StationsOk) (h : execClearCounters s = .next t) : t.StationsOk :=
  hs.of_whenOp h fun m => hs.of_whenOwner m fun _ => hs.congr s.roster_clearCounters

theorem setMode_stationsOk (hs : s.StationsOk) (h : execSetMode s = .next t) : t.StationsOk := by
  refine hs.of_whenOp h fun m => hs.of_whenOwner m fun x => hs.congr ?_
  split
  · split <;> rfl
  · rfl

/-! ### The store and RESTART -/

theorem State.StationsOk.storeOperation {kind : StoreKind} (hs : s.StationsOk)
    (h : s.storeOperation kind = .next t) : t.StationsOk := by
  refine hs.of_whenOp h fun m => hs.of_whenOwner m fun x => hs.congr ?_
  split <;> rfl

theorem storeWriteEnd_stationsOk {result : ReadBack} (hs : s.StationsOk)
    (h : execStoreWriteEnd result s = .next t) : t.StationsOk := by
  refine hs.of_whenRunning h (hs.congr ?_)
  split
  · rfl
  case h_2 op _ =>
    cases result with
    | equal =>
      rw [State.storeSuccess, State.roster_storeReport]
      cases op.kind <;> rfl
    | mismatch => exact State.roster_storeReport _ _ _ _ _

theorem storeLimitExpiry_stationsOk (hs : s.StationsOk) (h : execStoreLimitExpiry s = .next t) :
    t.StationsOk := by
  refine hs.of_whenRunning h (hs.congr ?_)
  split
  · rfl
  · exact State.roster_storeReport _ _ _ _ _

theorem restart_stationsOk (hs : s.StationsOk) (h : execRestart s = .next t) : t.StationsOk := by
  refine hs.of_whenOp h fun m => hs.of_whenOwner m fun x => hs.congr ?_
  split <;> rfl

theorem restartHoldAndLeasePart_stationsOk (hs : s.StationsOk)
    (h : execRestartHoldAndLeasePart s = .next t) : t.StationsOk :=
  hs.of_whenRestarting h fun _ =>
    (hs.dropHeld fun _ => true).congr (State.roster_purge _ _ _)

/-- Every transaction is answered and every station returns (R125). -/
theorem restartTransactionPart_stationsOk (hs : s.StationsOk)
    (h : execRestartTransactionPart s = .next t) : t.StationsOk := by
  refine hs.of_whenRestarting h fun r => ?_
  have hcleared : State.StationsOk
      { s with entries := [], stations := s.stations.map Station.returned } :=
    .cleared rfl hs.heldFor fun n => ⟨s.station n, State.station_of_map rfl rfl n⟩
  refine hcleared.congr ?_
  dsimp only
  rw [State.roster_runClaim, State.roster_runClaim]
  rfl

theorem restartNoticePart_stationsOk {p : Port} (hs : s.StationsOk)
    (h : execRestartNoticePart p s = .next t) : t.StationsOk := by
  refine hs.of_whenRestarting h fun _ => hs.congr ?_
  rw [State.roster_maskChange, State.roster_request]
  rfl

theorem restartAnswer_stationsOk (hs : s.StationsOk) (h : execRestartAnswer s = .next t) :
    t.StationsOk := by
  refine hs.of_whenRestarting h fun _ => hs.congr ?_
  split <;> rfl

end Commands

/-! ### Every command -/

/-- Every command keeps the invariant. -/
theorem exec_stationsOk {c : Instr} {s t : State} (hs : s.StationsOk) (h : exec c s = .next t) :
    t.StationsOk := by
  cases c with
  | powerOn => exact powerOn_stationsOk hs h
  | powerFail => exact powerFail_stationsOk hs h
  | resetNFall => exact resetNFall_stationsOk hs h
  | pinReset => exact pinReset_stationsOk hs h
  | startUpLoadEnd => exact startUpLoadEnd_stationsOk hs h
  | framingError l x => exact framingError_stationsOk hs h
  | frameGapPause l => exact frameGapPause_stationsOk hs h
  | controlTelegram p last => exact controlTelegram_stationsOk hs h
  | silenceTimerExpiry x => exact silenceTimerExpiry_stationsOk hs h
  | leaseReleaseOnLinkDown p => exact leaseReleaseOnLinkDown_stationsOk hs h
  | sessionEndOnLinkDown p => exact sessionEndOnLinkDown_stationsOk hs h
  | fieldTelegram last => exact fieldTelegram_stationsOk hs h
  | screening x => exact screening_stationsOk hs h
  | hitCountRaise station block => exact hitCountRaise_stationsOk hs h
  | dispatch => exact dispatch_stationsOk hs h
  | fieldTransmissionEnd => exact fieldTransmissionEnd_stationsOk hs h
  | deadline tag => exact deadline_stationsOk hs h
  | holdTimerExpiry n => exact holdTimerExpiry_stationsOk hs h
  | meterRefill n => exact meterRefill_stationsOk hs h
  | leaseExpiry g => exact leaseExpiry_stationsOk hs h
  | isolatedPurge => exact isolatedPurge_stationsOk hs h
  | portSendEnd p => exact portSendEnd_stationsOk hs h
  | noticeRepeatExpiry p => exact noticeRepeatExpiry_stationsOk hs h
  | sessionIdleExpiry => exact sessionIdleExpiry_stationsOk hs h
  | unknownOp => exact unknownOp_stationsOk hs h
  | echo => exact echo_stationsOk hs h
  | sessionOpen => exact sessionOpen_stationsOk hs h
  | sessionClose => exact sessionClose_stationsOk hs h
  | readConfig => exact readConfig_stationsOk hs h
  | stageConfig => exact stageConfig_stationsOk hs h
  | stageAdd => exact stageAdd_stationsOk hs h
  | stageModify => exact stageModify_stationsOk hs h
  | stageDelete => exact stageDelete_stationsOk hs h
  | listRead => exact listRead_stationsOk hs h
  | apply => exact apply_stationsOk hs h
  | discard => exact discard_stationsOk hs h
  | commit => exact hs.storeOperation h
  | setLock => exact hs.storeOperation h
  | eraseProtected => exact hs.storeOperation h
  | readEntry => exact readEntry_stationsOk hs h
  | readBucket => exact readBucket_stationsOk hs h
  | readStation => exact readStation_stationsOk hs h
  | readCounters => exact readCounters_stationsOk hs h
  | clearCounters => exact clearCounters_stationsOk hs h
  | leaseTake => exact leaseTake_stationsOk hs h
  | leaseRenew => exact leaseRenew_stationsOk hs h
  | leaseRelease => exact leaseRelease_stationsOk hs h
  | leaseStatus => exact leaseStatus_stationsOk hs h
  | noticeAck => exact noticeAck_stationsOk hs h
  | setMode => exact setMode_stationsOk hs h
  | readStore => exact readStore_stationsOk hs h
  | restart => exact restart_stationsOk hs h
  | restartHoldAndLeasePart => exact restartHoldAndLeasePart_stationsOk hs h
  | restartTransactionPart => exact restartTransactionPart_stationsOk hs h
  | restartNoticePart p => exact restartNoticePart_stationsOk hs h
  | restartAnswer => exact restartAnswer_stationsOk hs h
  | storeWriteEnd result => exact storeWriteEnd_stationsOk hs h
  | storeLimitExpiry => exact storeLimitExpiry_stationsOk hs h
  | characterReceived l x => exact characterReceived_stationsOk hs h

/-- Settles O55: a tick changes nothing that the invariant reads, and every command keeps it. -/
theorem everyStepKeepsTheStations : Obligations.EveryStepKeepsTheStations := by
  intro s t hs h
  unfold step at h
  split at h
  case h_1 =>
    cases h
    exact hs.congr rfl
  case h_2 rest _ => exact exec_stationsOk (s := { s with pending := rest }) (hs.congr rfl) h

end Sys2Proof.Machine

/-! ## The output units: the choice of a transmitter, and what every change of a unit keeps (R126 to R131) -/

namespace Sys2Proof.Machine

/-! ### The choice of an IDLE transmitter (R130) -/

section Choice
variable {o : OutputUnit} {a e : Telegram} {as es : List Telegram}

theorem OutputUnit.choose_nothing (hidle : o.sending = none) (ha : o.answers = []) (he : o.events = [])
    (now : Nat) : o.choose now = o := by
  simp only [OutputUnit.choose, hidle, ha, he]

theorem OutputUnit.choose_event (hidle : o.sending = none) (ha : o.answers = []) (he : o.events = e :: es)
    (now : Nat) : o.choose now = { o with sending := some ⟨.event, e, now⟩, answerRun := 0 } := by
  simp only [OutputUnit.choose, hidle, ha, he]

theorem OutputUnit.choose_answer (hidle : o.sending = none) (ha : o.answers = a :: as) (he : o.events = [])
    (now : Nat) : o.choose now = { o with sending := some ⟨.answer, a, now⟩, answerRun := 0 } := by
  simp only [OutputUnit.choose, hidle, ha, he]

/-- With both sections occupied the fifth choice in a row is an event (R130). -/
theorem OutputUnit.choose_either (hidle : o.sending = none) (ha : o.answers = a :: as)
    (he : o.events = e :: es) (now : Nat) :
    o.choose now = if 4 ≤ o.answerRun then { o with sending := some ⟨.event, e, now⟩, answerRun := 0 }
      else { o with sending := some ⟨.answer, a, now⟩, answerRun := o.answerRun + 1 } := by
  simp only [OutputUnit.choose, hidle, ha, he]

end Choice

/-- Settles O30: the choices one by one, and a placement as the joining of one run (R128). -/
theorem transmitterChooses : Obligations.TransmitterChooses := by
  intro o now a e as es
  refine ⟨fun hidle ha he hrun => ?answerOfBoth, fun hidle ha he hrun => ?eventOfBoth,
    fun hidle ha he => OutputUnit.choose_answer hidle ha he now,
    fun hidle ha he => OutputUnit.choose_event hidle ha he now,
    fun hidle ha he => OutputUnit.choose_nothing hidle ha he now, fun hbusy => ?busy, fun t rest => ?place,
    OutputUnit.place_nil now o, fun t => rfl⟩
  case answerOfBoth => rw [OutputUnit.choose_either hidle ha he, if_neg (Nat.not_le.2 hrun)]
  case eventOfBoth => rw [OutputUnit.choose_either hidle ha he, if_pos hrun]
  case busy =>
    obtain ⟨x, hx⟩ := Option.isSome_iff_exists.1 hbusy
    exact OutputUnit.choose_busy hx
  case place =>
    rw [OutputUnit.place_of_ne now (List.cons_ne_nil t rest), List.append_assoc, List.length_append,
      List.length_cons]

/-! ### What every change of an output unit keeps (R126, R129, R130) -/

/-- A telegram that may stand in the answer section (R126). -/
def Telegram.isAnswer (t : Telegram) : Prop := t.kind = .rsp ∨ t.kind = .mga

/-- A telegram that may stand in the event section (R129). -/
def Telegram.isEvent (t : Telegram) : Prop := t.kind = .evt ∨ t.kind = .ntc

/-- The head of the section that the sending `x` came from (R130). -/
def OutputUnit.headOf (o : OutputUnit) (x : Sending) : Option Telegram :=
  match x.part with
  | .answer => o.answers.head?
  | .event => o.events.head?

/-- The unit fits, and its reservations are those of `owed` answers and of what was handed to it (R126, R60). -/
structure OutputUnit.Balanced (o : OutputUnit) (owed : Nat) : Prop where
  ok : o.Ok
  reserved : o.reserved = owed + o.handed.length + o.handedBack

section Units
variable {o : OutputUnit} {n : Nat}

/-- After the choice the transmitter is BUSY while anything is placed, and sends the head of a section. -/
theorem OutputUnit.Ok.choose (now : Nat) (hplaces : o.used ≤ 40) (hevents : o.events.length ≤ 16)
    (hanswerKinds : ∀ t ∈ o.handed ++ o.answers, t.isAnswer) (heventKinds : ∀ t ∈ o.events, t.isEvent)
    (hhead : ∀ x ∈ o.sending, o.headOf x = some x.telegram) (hrun : o.answerRun ≤ 4) :
    (o.choose now).Ok := by
  cases hsending : o.sending with
  | some x =>
    rw [OutputUnit.choose_busy hsending]
    exact ⟨hplaces, hevents, hanswerKinds, heventKinds,
      fun hidle => (nomatch hidle.symm.trans hsending), hhead, hrun⟩
  | none =>
    cases ha : o.answers with
    | nil =>
      cases he : o.events with
      | nil =>
        rw [OutputUnit.choose_nothing hsending ha he]
        exact ⟨hplaces, hevents, hanswerKinds, heventKinds, fun _ => ⟨ha, he⟩, hhead, hrun⟩
      | cons e es =>
        rw [OutputUnit.choose_event hsending ha he]
        exact ⟨hplaces, hevents, hanswerKinds, heventKinds, nofun, by simp [he], Nat.zero_le _⟩
    | cons a as =>
      cases he : o.events with
      | nil =>
        rw [OutputUnit.choose_answer hsending ha he]
        exact ⟨hplaces, hevents, hanswerKinds, heventKinds, nofun, by simp [ha], Nat.zero_le _⟩
      | cons e es =>
        rw [OutputUnit.choose_either hsending ha he]
        split
        · exact ⟨hplaces, hevents, hanswerKinds, heventKinds, nofun, by simp [he], Nat.zero_le _⟩
        case isFalse hfew =>
          exact ⟨hplaces, hevents, hanswerKinds, heventKinds, nofun, by simp [ha], Nat.lt_of_not_le hfew⟩

/-- The head of an occupied section stays the head when telegrams join the tails. -/
theorem OutputUnit.headOf_of_joined {o' : OutputUnit} {x : Sending} {answers events : List Telegram}
    (h : o.headOf x = some x.telegram) (hanswers : o'.answers = o.answers ++ answers)
    (hevents : o'.events = o.events ++ events) : o'.headOf x = some x.telegram := by
  unfold OutputUnit.headOf at h ⊢
  rw [hanswers, hevents]
  cases hpart : x.part <;> simp only [hpart] at h ⊢ <;> rw [List.head?_append, h] <;> rfl

/-- Of what was handed on earlier and of a new run, the first telegrams join the answer section and the others
stay handed on: each that joins ends one reservation (R128). -/
theorem OutputUnit.Balanced.join {front rest run : List Telegram} (h : o.Balanced (n + run.length))
    (hkinds : ∀ t ∈ run, t.isAnswer) (hsplit : o.handed ++ run = front ++ rest) (now : Nat) :
    ({ o with handed := rest }.join now front).Balanced n := by
  have hlength := congrArg List.length hsplit
  rw [List.length_append, List.length_append] at hlength
  have hreserved := h.reserved
  have hplaces := h.ok.places
  unfold OutputUnit.used at hplaces
  refine ⟨OutputUnit.Ok.choose now ?_ h.ok.events (fun t ht => ?_) h.ok.eventKinds (fun x hx => ?_)
    h.ok.run, ?_⟩
  · simp only [OutputUnit.used, List.length_append]
    omega
  · have hmem : t ∈ (o.handed ++ run) ++ o.answers := by
      rw [hsplit]
      simp only [List.mem_append] at ht ⊢
      tauto
    simp only [List.mem_append] at hmem
    rcases hmem with (hhanded | hrun) | hanswers
    · exact h.ok.answerKinds t (List.mem_append_left _ hhanded)
    · exact hkinds t hrun
    · exact h.ok.answerKinds t (List.mem_append_right _ hanswers)
  · exact OutputUnit.headOf_of_joined (h.ok.head x hx) rfl (List.append_nil _).symm
  · simp only [OutputUnit.join, OutputUnit.choose_reserved, OutputUnit.choose_handed,
      OutputUnit.choose_handedBack]
    omega

theorem OutputUnit.Balanced.place {run : List Telegram} (h : o.Balanced (n + run.length))
    (hkinds : ∀ t ∈ run, t.isAnswer) (now : Nat) : (o.place now run).Balanced n := by
  unfold OutputUnit.place
  split
  case isTrue hempty =>
    obtain rfl := List.isEmpty_iff.1 hempty
    exact h
  case isFalse => exact h.join hkinds (List.append_nil _).symm now

theorem OutputUnit.Balanced.placeOldest (h : o.Balanced n) (now : Nat) : (o.placeOldest now).Balanced n := by
  unfold OutputUnit.placeOldest
  split
  · exact h
  case h_2 t rest hhanded =>
    exact OutputUnit.Balanced.join (run := []) h nofun (by rw [hhanded, List.append_nil]; rfl) now

theorem OutputUnit.Balanced.releaseOne (h : o.Balanced n) : o.releaseOne.Balanced n := by
  have hreserved := h.reserved
  have hplaces := h.ok.places
  unfold OutputUnit.used at hplaces
  rw [OutputUnit.releaseOne_eq]
  split
  · exact h
  case isFalse hback =>
    refine ⟨{ h.ok with places := ?_ }, ?_⟩
    · simp only [OutputUnit.used]
      omega
    · dsimp only
      omega

theorem OutputUnit.Balanced.placeEvent {t : Telegram} (h : o.Balanced n) (hroom : o.events.length < 16)
    (hkind : t.isEvent) (now : Nat) : (o.placeEvent now t).Balanced n := by
  refine ⟨OutputUnit.Ok.choose now h.ok.places ?_ h.ok.answerKinds (fun t' ht' => ?_) (fun x hx => ?_)
    h.ok.run, ?_⟩
  · rw [List.length_append]
    exact hroom
  · rcases List.mem_append.1 ht' with hold | hnew
    · exact h.ok.eventKinds t' hold
    · obtain rfl := List.mem_singleton.1 hnew
      exact hkind
  · exact OutputUnit.headOf_of_joined (h.ok.head x hx) (List.append_nil _).symm rfl
  · simpa using h.reserved

theorem OutputUnit.Balanced.withGap (h : o.Balanced n) (gap : Bool) :
    ({ o with gap := gap } : OutputUnit).Balanced n := ⟨{ h.ok with }, h.reserved⟩

/-- The telegram that was sent leaves its section (R131). -/
theorem OutputUnit.Balanced.endSending (h : o.Balanced n) (now : Nat) : (o.endSending now).Balanced n := by
  have hplaces := h.ok.places
  unfold OutputUnit.used at hplaces
  unfold OutputUnit.endSending
  split
  · exact h
  · split
    · refine ⟨OutputUnit.Ok.choose now ?_ h.ok.events (fun t ht => h.ok.answerKinds t ?_)
        h.ok.eventKinds nofun h.ok.run, by simpa using h.reserved⟩
      · simp only [OutputUnit.used, List.length_tail]
        omega
      · exact (List.Sublist.append_left (List.tail_sublist _) _).subset ht
    · refine ⟨OutputUnit.Ok.choose now h.ok.places ?_ h.ok.answerKinds
        (fun t ht => h.ok.eventKinds t (List.mem_of_mem_tail ht)) nofun h.ok.run, by simpa using h.reserved⟩
      rw [List.length_tail]
      exact (Nat.sub_le _ _).trans h.ok.events

/-- A reservation is taken only while a place is free (R127). -/
theorem OutputUnit.Balanced.reserve (h : o.Balanced n) (hroom : o.used < 40) :
    ({ o with reserved := o.reserved + 1 } : OutputUnit).Balanced (n + 1) := by
  have hreserved := h.reserved
  refine ⟨{ h.ok with places := hroom }, ?_⟩
  dsimp only
  omega

theorem OutputUnit.Balanced.handOn {t : Telegram} (h : o.Balanced (n + 1)) (hkind : t.isAnswer) :
    ({ o with handed := o.handed ++ [t] } : OutputUnit).Balanced n := by
  have hreserved := h.reserved
  refine ⟨{ h.ok with answerKinds := fun t' ht' => ?_ }, ?_⟩
  · have hmem : t' ∈ o.handed ++ o.answers ∨ t' = t := by
      simp only [List.mem_append, List.mem_singleton] at ht' ⊢
      tauto
    rcases hmem with hold | rfl
    · exact h.ok.answerKinds t' hold
    · exact hkind
  · simp only [List.length_append, List.length_singleton]
    omega

theorem OutputUnit.Balanced.handBack (h : o.Balanced (n + 1)) :
    ({ o with handedBack := o.handedBack + 1 } : OutputUnit).Balanced n := by
  have hreserved := h.reserved
  refine ⟨{ h.ok with }, ?_⟩
  dsimp only
  omega

end Units

theorem OutputUnit.balanced_empty : OutputUnit.empty.Balanced 0 :=
  ⟨⟨Nat.zero_le _, Nat.zero_le _, nofun, nofun, fun _ => ⟨rfl, rfl⟩, nofun, Nat.zero_le _⟩, rfl⟩

end Sys2Proof.Machine

/-! ## What every step keeps of the answers (R126, R129, R130, R142)

Between two happenings the reservations of a port are those of the REQs and MGTs that some block still holds
and of what was handed to the output unit. Inside a happening answers may be due that no block holds any more:
a purge takes requests out of the hold queue, and the claims of the happening then answer them. `State.Owing`
counts these answers; what takes a request out raises the count, and every claim lowers it by what it places. -/

namespace Sys2Proof.Machine

/-! ### What the blocks still hold -/

/-- The REQs and MGTs of port `p` that some block still holds and has not answered (R126). -/
def State.outstanding (s : State) (p : Port) : Nat :=
  (s.toScreen.get p).length + (s.slots.filter fun m => m.port = p).length
    + (s.held.filter fun r => r.port = p).length + (s.entries.filter fun e => e.port = p).length
    + (s.store.op.toList.filter fun op => op.port = p).length

theorem State.owed_eq (s : State) (p : Port) :
    s.owed p = s.outstanding p + (s.output p).handed.length + (s.output p).handedBack := rfl

/-- The state inside a happening, with `due` answers of each port that no block holds any more and that are
still to be placed (R128). -/
structure State.Owing (s : State) (due : Port → Nat) : Prop where
  units : ∀ p, (s.output p).Balanced (s.outstanding p + due p)
  slots : s.slots.length ≤ 2

theorem State.answersOk_iff_owing {s : State} : s.AnswersOk ↔ s.Owing 0 :=
  ⟨fun h => ⟨fun p => ⟨h.unit p, h.reserved p⟩, h.slots⟩,
    fun h => ⟨fun p => (h.units p).ok, fun p => (h.units p).reserved, h.slots⟩⟩

/-- What the invariant reads of a state. -/
structure Books where
  outputs : PerPort OutputUnit
  toScreen : PerPort (List Telegram)
  slots : List Mgt
  held : List HeldReq
  entries : List Entry
  op : Option StoreOp

/-- The books of a state. -/
def State.books (s : State) : Books where
  outputs := s.outputs
  toScreen := s.toScreen
  slots := s.slots
  held := s.held
  entries := s.entries
  op := s.store.op

/-! ### Counting by port -/

section Counting
variable {α : Type} (port : α → Port)

/-- One more of port `port x` is one more of that port. -/
theorem length_filter_cons_of_port (x : α) (l : List α) (p : Port) :
    ((x :: l).filter fun y => port y = p).length
      = (l.filter fun y => port y = p).length + (Pi.single (port x) 1 : Port → Nat) p := by
  by_cases hp : port x = p
  · subst hp
    simp
  · simp [hp]

theorem length_filter_concat_of_port (l : List α) (x : α) (p : Port) :
    ((l ++ [x]).filter fun y => port y = p).length
      = (l.filter fun y => port y = p).length + (Pi.single (port x) 1 : Port → Nat) p :=
  (((List.perm_append_singleton x l).filter _).length_eq).trans (length_filter_cons_of_port port x l p)

theorem length_filter_erase_of_port [BEq α] [LawfulBEq α] {l : List α} {x : α} (hx : x ∈ l) (p : Port) :
    ((l.erase x).filter fun y => port y = p).length + (Pi.single (port x) 1 : Port → Nat) p
      = (l.filter fun y => port y = p).length :=
  (length_filter_cons_of_port port x (l.erase x) p).symm.trans
    (((List.perm_cons_erase hx).filter _).length_eq).symm

theorem length_get_set_concat (lists : PerPort (List α)) (p q : Port) (x : α) :
    ((lists.set p (lists.get p ++ [x])).get q).length
      = (lists.get q).length + (Pi.single p 1 : Port → Nat) q := by
  by_cases hq : q = p
  · subst hq
    simp
  · simp [PerPort.get_set, hq]

theorem length_get_set_of_cons {lists : PerPort (List α)} {p : Port} {x : α} {rest : List α}
    (h : lists.get p = x :: rest) (q : Port) :
    ((lists.set p rest).get q).length + (Pi.single p 1 : Port → Nat) q = (lists.get q).length := by
  by_cases hq : q = p
  · subst hq
    simp [h]
  · simp [PerPort.get_set, hq]

end Counting

/-- The counts of the two ports are the counts of both. -/
theorem single_add_single (n : Port → Nat) : Pi.single .a (n .a) + Pi.single .b (n .b) = n := by
  funext p
  cases p <;> simp

section Owing
variable {s t : State} {due due' : Port → Nat}

/-- Requests go from one block to another, leave the blocks and are due, or are due no more. -/
theorem State.Owing.moved (h : s.Owing due) (houtputs : t.outputs = s.outputs) (hslots : t.slots.length ≤ 2)
    (hbalance : ∀ p, t.outstanding p + due' p = s.outstanding p + due p) : t.Owing due' := by
  refine ⟨fun p => ?_, hslots⟩
  have houtput : t.output p = s.output p := congrArg (·.get p) houtputs
  rw [houtput, hbalance]
  exact h.units p

/-- The invariant reads the books alone. -/
theorem State.Owing.congr (h : s.Owing due) (hbooks : t.books = s.books) : t.Owing due := by
  obtain ⟨houtputs, htoScreen, hslots, hheld, hentries, hop⟩ := Books.mk.inj hbooks
  refine h.moved houtputs (hslots ▸ h.slots) fun p => ?_
  unfold State.outstanding
  rw [htoScreen, hslots, hheld, hentries, hop]

/-- One output unit is replaced, and the other port owes what it owed. -/
theorem State.Owing.withOutput {p : Port} {o : OutputUnit} (h : s.Owing due)
    (ho : o.Balanced (s.outstanding p + due' p)) (hother : ∀ q, q ≠ p → due' q = due q) :
    (s.withOutput p o).Owing due' := by
  refine ⟨fun q => ?_, h.slots⟩
  have houtput : (s.withOutput p o).output q = if q = p then o else s.output q := PerPort.get_set _ _ _ _
  rw [houtput]
  by_cases hq : q = p
  · subst hq
    rw [if_pos rfl]
    exact ho
  · rw [if_neg hq, hother q hq]
    exact h.units q

/-! ### The books of the operations that leave them as they were -/

@[simp] theorem State.books_withStation (s : State) (n : Nat) (r : Station) :
    (s.withStation n r).books = s.books := by cases n <;> rfl

@[simp] theorem State.books_withMeter (s : State) (n : Nat) (m : Meter) :
    (s.withMeter n m).books = s.books := by cases n <;> rfl

@[simp] theorem State.books_withLease (s : State) (g : Nat) (l : Option Lease) :
    (s.withLease g l).books = s.books := by cases g <;> rfl

@[simp] theorem State.books_countFraming (s : State) (l : Line) : (s.countFraming l).books = s.books := by
  cases l <;> rfl

@[simp] theorem State.books_maskChange (s : State) (p : Port) : (s.maskChange p).books = s.books := by
  unfold State.maskChange
  split <;> rfl

@[simp] theorem State.books_maskChangeIf (s : State) (list : List ListItem) (p : Port) :
    (s.maskChangeIf list p).books = s.books := by
  unfold State.maskChangeIf
  split
  · exact s.books_maskChange p
  · rfl

@[simp] theorem State.books_touchSession (s : State) (p : Port) : (s.touchSession p).books = s.books := by
  rw [State.touchSession_eq]
  rfl

@[simp] theorem State.books_unmatchedRsp (s : State) (rsp : Telegram) :
    (s.unmatchedRsp rsp).books = s.books := by
  unfold State.unmatchedRsp
  dsimp only
  split
  · exact State.books_withStation _ _ _
  · rfl

@[simp] theorem State.books_countRoute (s : State) (evt : Telegram) : (s.countRoute evt).books = s.books := by
  unfold State.countRoute
  split
  · rfl
  · split <;> rfl

/-! ### Notices and events (R129, R133, R135, R137) -/

theorem State.Owing.offerNtc (h : s.Owing due) (p : Port) : (s.offerNtc p).Owing due := by
  unfold State.offerNtc
  split
  · dsimp only
    split
    case isTrue hroom =>
      have hunit : (s.output p).Balanced (s.outstanding p + due p) := h.units p
      exact ((h.congr rfl : (s.startRepeat p).Owing due).withOutput
        (hunit.placeEvent hroom (.inr rfl) _) fun _ _ => rfl).congr rfl
    case isFalse => exact h.congr rfl
  · exact h

theorem State.Owing.request (h : s.Owing due) (f : NoticeFlag) (d : Detail) (p : Port) :
    (s.request f d p).Owing due := by
  unfold State.request
  dsimp only
  split
  · exact h.congr rfl
  · split
    · exact (h.congr rfl : (s.withNotice p (((s.notice p).note d).raise f)).Owing due).offerNtc p
    · exact h.congr rfl

theorem State.Owing.requestBoth (h : s.Owing due) (f : NoticeFlag) (d : Detail) :
    (s.requestBoth f d).Owing due := (h.request f d .a).request f d .b

theorem State.Owing.offerEvt {evt : Telegram} (h : s.Owing due) (hevt : evt.isEvent) (p : Port) :
    (s.offerEvt evt p).Owing due := by
  unfold State.offerEvt
  dsimp only
  split
  case isTrue hroom =>
    have hforward : (forwardEvt evt (s.output p).gap).isEvent := hevt
    exact h.withOutput (((h.units p).withGap false).placeEvent hroom hforward _) fun _ _ => rfl
  case isFalse =>
    exact State.Owing.request ((h.congr rfl : (s.count p .eventsDropped).Owing due).withOutput
      ((h.units p).withGap true) fun _ _ => rfl) _ _ _

theorem State.Owing.offerTo {evt : Telegram} (h : s.Owing due) (hevt : evt.isEvent) (route : Route)
    (p : Port) : (s.offerTo evt route p).Owing due := by
  unfold State.offerTo
  split
  · exact h.offerEvt hevt p
  · exact h

theorem State.Owing.routeEvt {evt : Telegram} (h : s.Owing due) (hevt : evt.isEvent) :
    (s.routeEvt evt).Owing due :=
  ((h.congr (s.books_countRoute evt)).offerTo hevt _ .a).offerTo hevt _ .b

/-! ### Answers (R128) -/

/-- An answer or a run of answers is placed: so many fewer are due on its port. -/
theorem State.Owing.answer {p : Port} {run : List Telegram}
    (h : s.Owing (due + Pi.single p run.length)) (hkinds : ∀ t ∈ run, t.isAnswer) :
    (s.answer p run).Owing due := by
  have hunit := h.units p
  rw [Pi.add_apply, Pi.single_eq_same, ← Nat.add_assoc] at hunit
  refine h.withOutput (hunit.place hkinds s.now) fun q hq => ?_
  rw [Pi.add_apply, Pi.single_eq_of_ne hq, Nat.add_zero]

/-- An answer is handed on, and is due no more (R57, R60). -/
theorem State.Owing.handOn {p : Port} {t : Telegram} (h : s.Owing (due + Pi.single p 1))
    (hkind : t.isAnswer) : (s.handOn p t).Owing due := by
  have hunit := h.units p
  rw [Pi.add_apply, Pi.single_eq_same, ← Nat.add_assoc] at hunit
  refine h.withOutput (hunit.handOn hkind) fun q hq => ?_
  rw [Pi.add_apply, Pi.single_eq_of_ne hq, Nat.add_zero]

/-- A reservation is handed back: its answer is due no more (R60, R61). -/
theorem State.Owing.handBack {p : Port} (h : s.Owing (due + Pi.single p 1)) : (s.handBack p).Owing due := by
  have hunit := h.units p
  rw [Pi.add_apply, Pi.single_eq_same, ← Nat.add_assoc] at hunit
  refine h.withOutput hunit.handBack fun q hq => ?_
  rw [Pi.add_apply, Pi.single_eq_of_ne hq, Nat.add_zero]

/-- A reservation is taken for an answer that is due from now on (R127). -/
theorem State.Owing.reserve {p : Port} (h : s.Owing due) (hroom : (s.output p).used < 40) :
    (s.reserve p).Owing (due + Pi.single p 1) := by
  refine h.withOutput ?_ fun q hq => ?_
  · rw [Pi.add_apply, Pi.single_eq_same, ← Nat.add_assoc]
    exact (h.units p).reserve hroom
  · rw [Pi.add_apply, Pi.single_eq_of_ne hq, Nat.add_zero]

/-- One run on each port. -/
theorem State.Owing.answerBoth {run : Port → List Telegram} (h : s.Owing (due + fun p => (run p).length))
    (hkinds : ∀ p, ∀ t ∈ run p, t.isAnswer) :
    (State.answer .b (run .b) (State.answer .a (run .a) s)).Owing due := by
  rw [← single_add_single fun p => (run p).length, add_comm (Pi.single _ _), ← add_assoc] at h
  exact (h.answer (hkinds .a)).answer (hkinds .b)

/-! ### Purges of the hold queue (R102) -/

/-- The requests of a port that a selection leaves, and the answers to the others, are as many as its
requests. -/
theorem length_purgeRun (held : List HeldReq) (sel : HeldReq → Bool) (st : RelayStatus) (p : Port) :
    ((held.filter fun r => !sel r).filter fun r => r.port = p).length + (purgeRun held sel st p).length
      = (held.filter fun r => r.port = p).length := by
  rw [purgeRun, List.length_map, List.filter_comm, ← List.filter_filter, Nat.add_comm]
  exact (List.length_eq_length_filter_add sel).symm

theorem isAnswer_of_mem_purgeRun {held : List HeldReq} {sel : HeldReq → Bool} {st : RelayStatus} {p : Port} :
    ∀ t ∈ purgeRun held sel st p, t.isAnswer := by
  intro t ht
  obtain ⟨r, _, rfl⟩ := List.mem_map.1 ht
  exact .inl rfl

/-- The requests that a purge takes out of the hold queue are due. -/
theorem State.Owing.dropHeld (h : s.Owing due) (sel : HeldReq → Bool) (st : RelayStatus) :
    (s.dropHeld sel).Owing (due + fun p => (purgeRun s.held sel st p).length) := by
  refine h.moved rfl h.slots fun p => ?_
  have hlength := length_purgeRun s.held sel st p
  simp only [State.outstanding, State.dropHeld, Pi.add_apply]
  omega

theorem State.Owing.purge (h : s.Owing due) (sel : HeldReq → Bool) (st : RelayStatus) :
    (s.purge sel st).Owing due := by
  rw [State.purge_eq]
  exact (h.dropHeld sel st).answerBoth fun _ => isAnswer_of_mem_purgeRun

/-- A purge that selects requests of one port alone makes answers of that port due. -/
theorem State.Owing.dropHeldOf {p : Port} {sel : HeldReq → Bool} (h : s.Owing due)
    (hsel : ∀ r, sel r = true → r.port = p) (st : RelayStatus) :
    (s.dropHeld sel).Owing (due + Pi.single p (purgeRun s.held sel st p).length) := by
  have hsum : (fun q => (purgeRun s.held sel st q).length)
      = Pi.single p (purgeRun s.held sel st p).length := by
    funext q
    by_cases hq : q = p
    · subst hq
      rw [Pi.single_eq_same]
    · have hnone : (s.held.filter fun r => sel r && r.port = q) = [] := by
        refine List.filter_eq_nil_iff.2 fun r _ hr => ?_
        simp only [Bool.and_eq_true, decide_eq_true_eq] at hr
        exact hq (hr.2.symm.trans (hsel r hr.1))
      rw [Pi.single_eq_of_ne hq, purgeRun, hnone]
      rfl
  rw [← hsum]
  exact h.dropHeld sel st

end Owing

/-! ### The claims of one happening (R128) -/

/-- The claim lowers the answers that are due by `owes`. -/
def Pays (owes : Port → Nat) (claim : State → State) : Prop :=
  ∀ (s : State) (due : Port → Nat), s.Owing (due + owes) → (claim s).Owing due

/-- The claims of a list together lower the answers that are due by `owes`. -/
inductive PaysAll : (Port → Nat) → List (State → State) → Prop
  | nil : PaysAll 0 []
  | cons {owes owes' : Port → Nat} {claim : State → State} {claims : List (State → State)}
    (hfirst : Pays owes claim) (hrest : PaysAll owes' claims) : PaysAll (owes + owes') (claim :: claims)

section Claims
variable {owes owes' : Port → Nat} {claim : State → State} {claims claims' : List (State → State)}

theorem PaysAll.one (h : Pays owes claim) : PaysAll owes [claim] := by
  simpa using PaysAll.cons h .nil

theorem PaysAll.append (h : PaysAll owes claims) (h' : PaysAll owes' claims') :
    PaysAll (owes + owes') (claims ++ claims') := by
  induction h with
  | nil => simpa using h'
  | cons hfirst _ ih =>
    rw [add_assoc]
    exact .cons hfirst ih

/-- The order of the claims makes no difference to what they pay. -/
theorem PaysAll.perm (h : PaysAll owes claims) (hperm : claims.Perm claims') : PaysAll owes claims' := by
  induction hperm generalizing owes with
  | nil => exact h
  | cons _ _ ih =>
    cases h with
    | cons hfirst hrest => exact .cons hfirst (ih hrest)
  | swap _ _ _ =>
    cases h with
    | cons hfirst hrest =>
      cases hrest with
      | cons hsecond hrest =>
        rw [add_left_comm]
        exact .cons hsecond (.cons hfirst hrest)
  | trans _ _ ih ih' => exact ih' (ih h)

/-- Claims taken one after another pay together. -/
theorem PaysAll.foldl (h : PaysAll owes claims) :
    ∀ (s : State) (due : Port → Nat), s.Owing (due + owes) →
      (claims.foldl (fun u claim => claim u) s).Owing due := by
  induction h with
  | nil => exact fun _ _ h => h
  | @cons owes owes' _ _ hfirst _ ih =>
    intro s due hs
    refine ih _ due (hfirst s _ ?_)
    rwa [add_assoc, add_comm owes']

/-- Claims that are each taken once, in some order, pay what they pay together. -/
theorem PaysAll.taken {s t : State} {due : Port → Nat} (h : PaysAll owes claims)
    (ht : s.TakenInSomeOrder claims t) (hs : s.Owing (due + owes)) : t.Owing due := by
  obtain ⟨order, n, hperm, rfl⟩ := ht
  exact (h.perm hperm.symm).foldl _ due (hs.congr rfl)

theorem PaysAll.inSomeOrder {s : State} {due : Port → Nat} (h : PaysAll owes claims)
    (hs : s.Owing (due + owes)) : (s.inSomeOrder claims).Owing due :=
  h.taken (s.inSomeOrder_taken claims) hs

theorem Pays.answer {p : Port} {run : List Telegram} (hkinds : ∀ t ∈ run, t.isAnswer) :
    Pays (Pi.single p run.length) (State.answer p run) := fun _ _ hs => hs.answer hkinds

theorem Pays.request (f : NoticeFlag) (d : Detail) (p : Port) : Pays 0 (State.request f d p) :=
  fun _ _ hs => hs.request f d p

theorem PaysAll.runClaim {p : Port} {run : List Telegram} (hkinds : ∀ t ∈ run, t.isAnswer) :
    PaysAll (Pi.single p run.length) (runClaim p run) := by
  unfold Machine.runClaim
  split
  case isTrue hempty =>
    obtain rfl := List.isEmpty_iff.1 hempty
    simpa using PaysAll.nil
  case isFalse => exact .one (.answer hkinds)

end Claims

end Sys2Proof.Machine

/-! ## What each command keeps of the answers (R126, R129, R130, R142) -/

namespace Sys2Proof.Machine

/-! ### Commands under their frames -/

section Frames
variable {s t : State} {due : Port → Nat}

theorem State.Owing.of_whenRunning {f : State → State} (hs : s.Owing due) (h : s.whenRunning f = .next t)
    (hf : (f s).Owing due) : t.Owing due := by
  rcases State.whenRunning_cases h with rfl | rfl
  · exact hf
  · exact hs

theorem State.Owing.of_whenRestarting {whenDue : RestartRun → Bool} {f : RestartRun → State → State}
    (hs : s.Owing due) (h : s.whenRestarting whenDue f = .next t) (hf : ∀ r, (f r s).Owing due) :
    t.Owing due := by
  rcases State.whenRestarting_cases h with ⟨r, _, _, _, rfl⟩ | rfl
  · exact hf r
  · exact hs

/-- The slot of the MGT that was taken first is freed: its answer is due (R143). -/
theorem State.Owing.freeSlot {m : Mgt} (hs : s.Owing due) (hm : s.slots.head? = some m) :
    s.freeSlot.Owing (due + Pi.single m.port 1) := by
  obtain ⟨more, hmore⟩ := List.head?_eq_some_iff.1 hm
  refine hs.moved rfl ?_ fun p => ?_
  · exact (List.length_tail ..).trans_le ((Nat.sub_le _ _).trans hs.slots)
  · have hcount := length_filter_cons_of_port Mgt.port m more p
    simp only [State.outstanding, State.freeSlot, hmore, List.tail_cons, Pi.add_apply]
    omega

/-- An operation that leaves the books as they were ends with an answer (R143). -/
theorem State.Owing.finish {m : Mgt} {st : MgtStatus} {data : List Byte} (hs : s.Owing due)
    (hm : s.slots.head? = some m) (hbooks : t.books = s.books) : (t.finish m st data).Owing due := by
  obtain ⟨_, _, hslots, _⟩ := Books.mk.inj hbooks
  have hfree : t.freeSlot.Owing (due + Pi.single m.port 1) :=
    (hs.congr hbooks).freeSlot ((congrArg List.head? hslots).trans hm)
  exact hfree.answer (List.forall_mem_singleton.2 (.inr rfl))

theorem State.Owing.of_whenMgt {takes : Byte → Bool} {f : Mgt → State → State} (hs : s.Owing due)
    (h : s.whenMgt takes f = .next t) (hf : ∀ m, s.slots.head? = some m → (f m s).Owing due) :
    t.Owing due := by
  rcases State.whenMgt_cases h with ⟨m, more, _, _, hslots, _, rfl⟩ | rfl
  · exact hf m (by rw [hslots]; rfl)
  · exact hs

theorem State.Owing.of_whenOp {code : Byte} {len : Nat} {f : Mgt → State → State} (hs : s.Owing due)
    (h : s.whenOp code len f = .next t) (hf : ∀ m, s.slots.head? = some m → (f m s).Owing due) :
    t.Owing due := by
  refine hs.of_whenMgt h fun m hm => ?_
  split
  · exact hf m hm
  · exact hs.finish hm rfl

theorem State.Owing.of_whenOwner {m : Mgt} {f : Session → State} (hs : s.Owing due)
    (hm : s.slots.head? = some m) (hf : ∀ x, (f x).Owing due) : (s.whenOwner m f).Owing due := by
  rcases s.whenOwner_cases m f with ⟨_, h⟩ | ⟨_, _, _, h⟩ | ⟨x, _, _, h⟩
  · exact h ▸ hs.finish hm rfl
  · exact h ▸ hs.finish hm rfl
  · exact h ▸ hf x

/-- Nothing is held by any block and both output units are empty (R140). -/
theorem State.Owing.cleared (h : t.books = ⟨.both .empty, .both [], [], [], [], none⟩) : t.Owing 0 := by
  obtain ⟨houtputs, htoScreen, hslots, hheld, hentries, hop⟩ := Books.mk.inj h
  refine ⟨fun p => ?_, by simp [hslots]⟩
  have houtput : t.output p = .empty := by rw [State.output, houtputs, PerPort.get_both]
  have hnone : t.outstanding p = 0 := by
    simp [State.outstanding, htoScreen, hslots, hheld, hentries, hop]
  rw [houtput, hnone]
  exact OutputUnit.balanced_empty

end Frames

section Commands
variable {s t : State}

/-! ### Supply, RESET_N and the load -/

theorem State.lost_owing (s : State) : s.lost.Owing 0 := .cleared rfl

theorem powerOn_owing (hs : s.Owing 0) (h : execPowerOn s = .next t) : t.Owing 0 := by
  simp only [execPowerOn, Host.Outcome.next.injEq] at h
  subst h
  split
  · exact hs
  · split <;> exact hs.congr rfl

theorem powerFail_owing (hs : s.Owing 0) (h : execPowerFail s = .next t) : t.Owing 0 := by
  simp only [execPowerFail, Host.Outcome.next.injEq] at h
  subst h
  split
  · exact s.lost_owing.congr rfl
  · exact hs

theorem resetNFall_owing (hs : s.Owing 0) (h : execResetNFall s = .next t) : t.Owing 0 := by
  simp only [execResetNFall, Host.Outcome.next.injEq] at h
  subst h
  split
  · exact hs
  · split
    · exact s.lost_owing.congr rfl
    · exact hs.congr rfl

theorem pinReset_owing (hs : s.Owing 0) (h : execPinReset s = .next t) : t.Owing 0 := by
  simp only [execPinReset, Host.Outcome.next.injEq] at h
  subst h
  split
  · exact hs
  · split <;> exact hs.congr rfl

theorem startUpLoadEnd_owing (hs : s.Owing 0) (h : execStartUpLoadEnd s = .next t) : t.Owing 0 := by
  simp only [execStartUpLoadEnd, Host.Outcome.next.injEq] at h
  subst h
  split
  case h_1 cause _ =>
    have hloaded : (s.loaded cause s.store.select.image).Owing 0 := by
      cases cause <;> exact s.lost_owing.congr rfl
    exact hloaded.requestBoth _ _
  all_goals exact hs

/-! ### Links -/

theorem framingError_owing {l : Line} {x : Character} (hs : s.Owing 0)
    (h : execFramingError l x s = .next t) : t.Owing 0 := by
  refine hs.of_whenRunning h (hs.congr ?_)
  split
  · exact State.books_countFraming _ l
  all_goals rfl

theorem characterReceived_owing {l : Line} {x : Character} (hs : s.Owing 0)
    (h : execCharacterReceived l x s = .next t) : t.Owing 0 := by
  refine hs.of_whenRunning h (hs.congr ?_)
  split <;> rfl

theorem frameGapPause_owing {l : Line} (hs : s.Owing 0) (h : execFrameGapPause l s = .next t) :
    t.Owing 0 := by
  refine hs.of_whenRunning h (hs.congr ?_)
  dsimp only
  split
  · rfl
  all_goals exact State.books_countFraming _ l

/-- A link that goes UP is announced to the other port (R28). -/
theorem State.Owing.supervise {due : Port → Nat} (hs : s.Owing due) (p : Port) :
    (s.supervise p).Owing due := by
  have hup : (s.linkUp p).Owing due := hs.congr rfl
  rw [State.supervise_eq]
  split
  · exact hup.request _ _ _
  · exact hup

/-- The answer to a REQ that is due is now that of a REQ waiting for its screening (R127). -/
theorem State.Owing.offerReq {due : Port → Nat} {p : Port} (hs : s.Owing (due + Pi.single p 1))
    (telegram : Telegram) : (s.offerReq p telegram).Owing due := by
  refine hs.moved rfl hs.slots fun q => ?_
  have hcount := length_get_set_concat s.toScreen p q telegram
  simp only [State.outstanding, State.offerReq, Pi.add_apply]
  omega

/-- An MGT whose answer is due takes a free slot, or is answered (R142). -/
theorem State.Owing.offerMgt {due : Port → Nat} {m : Mgt} (hs : s.Owing (due + Pi.single m.port 1)) :
    (s.offerMgt m).Owing due := by
  have htouched : (s.touchSession m.port).Owing (due + Pi.single m.port 1) :=
    hs.congr (s.books_touchSession m.port)
  unfold State.offerMgt
  dsimp only
  split
  case isTrue hfree =>
    refine htouched.moved rfl ?_ fun q => ?_
    · rw [List.length_append]
      exact hfree
    · have hcount := length_filter_concat_of_port Mgt.port (s.touchSession m.port).slots m q
      simp only [State.outstanding, Pi.add_apply]
      omega
  case isFalse => exact htouched.answer (List.forall_mem_singleton.2 (.inr rfl))

/-- A telegram that is accepted takes a reservation, while one is free (R26, R127). -/
theorem State.Owing.deliver {due : Port → Nat} (hs : s.Owing due) (p : Port) (telegram : Telegram) :
    (s.deliver p telegram).Owing due := by
  unfold State.deliver
  split
  case h_1 =>
    split
    case isTrue hroom => exact (hs.reserve hroom).offerReq telegram
    case isFalse => exact hs.congr rfl
  case h_2 =>
    split
    case isTrue hroom => exact State.Owing.offerMgt (m := telegram.toMgt p) (hs.reserve hroom)
    case isFalse => exact hs.congr rfl
  all_goals exact hs.congr rfl

theorem controlTelegram_owing {p : Port} {last : Byte} (hs : s.Owing 0)
    (h : execControlTelegram p last s = .next t) : t.Owing 0 := by
  refine hs.of_whenRunning h ?_
  split
  case h_1 telegram _ =>
    have hcounted : ((s.withAssembly (.control p) (.hunt false)).count p .telegramsIn).Owing 0 :=
      hs.congr rfl
    exact (hcounted.supervise p).deliver p telegram
  all_goals exact hs

theorem silenceTimerExpiry_owing {x : SilenceStep} (hs : s.Owing 0)
    (h : execSilenceTimerExpiry x s = .next t) : t.Owing 0 := by
  refine hs.of_whenRunning h ?_
  cases x with
  | expiry p =>
    dsimp only [State.fallSilent]
    split <;> exact hs.congr rfl
  | notice p =>
    dsimp only [State.notePeerDown]
    split
    · exact hs
    case h_2 n _ =>
      exact (hs.congr rfl : ({ s with noticeDown := s.noticeDown.set p n } : State).Owing 0).request _ _ _

/-! ### Field telegrams -/

theorem State.Owing.signOfLife {due : Port → Nat} (hs : s.Owing due) (telegram : Telegram) :
    (s.signOfLife telegram).Owing due := by
  unfold State.signOfLife
  split
  · exact (hs.congr (s.books_withStation _ _)).requestBoth _ _
  · exact hs

/-- A transaction that ends leaves its answer due (R113, R116). -/
theorem State.Owing.ended {due : Port → Nat} {e : Entry} (hs : s.Owing due) (he : e ∈ s.entries)
    (hbooks : t.books = { s.books with entries := s.entries.erase e }) :
    t.Owing (due + Pi.single e.port 1) := by
  obtain ⟨houtputs, htoScreen, hslots, hheld, hentries, hop⟩ := Books.mk.inj hbooks
  refine hs.moved houtputs (hslots ▸ hs.slots) fun p => ?_
  have hcount := length_filter_erase_of_port Entry.port he p
  simp only [State.books] at htoScreen hslots hheld hop
  simp only [State.outstanding, htoScreen, hslots, hheld, hentries, hop, Pi.add_apply]
  omega

theorem State.Owing.takeRsp {due : Port → Nat} (hs : s.Owing due) (rsp : Telegram) :
    (s.takeRsp rsp).Owing due := by
  unfold State.takeRsp
  split
  case h_1 e hfind =>
    have hends := hs.ended (List.mem_of_find?_eq_some hfind)
      (State.books_withStation { s with entries := s.entries.erase e } e.station.toNat
        { s.station e.station.toNat with state := .idle, streak := 0 })
    exact hends.answer (List.forall_mem_singleton.2 (.inl rfl))
  case h_2 => exact hs.congr (s.books_unmatchedRsp rsp)

theorem fieldTelegram_owing {last : Byte} (hs : s.Owing 0) (h : execFieldTelegram last s = .next t) :
    t.Owing 0 := by
  refine hs.of_whenRunning h ?_
  split
  case h_1 telegram _ =>
    have hcounted : ((s.withAssembly .field (.hunt false)).countField .telegramsIn).Owing 0 :=
      hs.congr rfl
    have hheard := hcounted.signOfLife telegram
    unfold State.takeFieldTelegram
    dsimp only
    split
    · split
      · exact hheard.takeRsp telegram
      · exact hheard.congr rfl
    case h_2 hkind => exact hheard.routeEvt (.inl hkind)
    all_goals exact hheard.congr rfl
  all_goals exact hs

/-! ### Screening and the dispatch of requests -/

/-- A held request that is formed at an admission is of the port that it came from (Table 4-3). -/
theorem State.screen_admitted_port {p : Port} {telegram : Telegram} {r : HeldReq} {meter : Nat}
    (h : s.screen p telegram = .admitted r meter) : r.port = p := by
  obtain ⟨_, op, e, hunder⟩ := State.screen_admitted h
  obtain ⟨rfl, _⟩ := State.screenUnder_admitted hunder
  rfl

/-- The REQ that waits first is taken: its answer is due (R60). -/
theorem State.Owing.takeFirst {due : Port → Nat} {p : Port} {telegram : Telegram} {rest : List Telegram}
    (hs : s.Owing due) (hfirst : s.toScreen.get p = telegram :: rest) :
    ({ s with toScreen := s.toScreen.set p rest } : State).Owing (due + Pi.single p 1) := by
  refine hs.moved rfl hs.slots fun q => ?_
  have hcount := length_get_set_of_cons hfirst q
  simp only [State.outstanding, Pi.add_apply]
  omega

/-- A request whose answer is due joins the hold queue (R71). -/
theorem State.Owing.admission {due : Port → Nat} {r : HeldReq} (hs : s.Owing (due + Pi.single r.port 1))
    (meter : Nat) : (s.admission r meter).Owing due := by
  rw [State.admission, State.takeToken_eq]
  refine hs.moved rfl hs.slots fun q => ?_
  have hcount := length_filter_concat_of_port HeldReq.port s.held r q
  simp only [State.outstanding, State.count, Pi.add_apply]
  omega

theorem screening_owing {x : ScreeningStep} (hs : s.Owing 0) (h : execScreening x s = .next t) :
    t.Owing 0 := by
  refine hs.of_whenRunning h ?_
  cases x with
  | judge p =>
    dsimp only [State.judgeFirst]
    split
    · exact hs
    case h_2 telegram rest hfirst =>
      have htaken := hs.takeFirst hfirst
      cases hverdict : s.screen p telegram with
      | absorbed => exact htaken.handBack.congr rfl
      | refused st =>
        exact State.Owing.handOn (s := State.count _ p .refused) (htaken.congr rfl) (.inl rfl)
      | admitted r meter =>
        obtain rfl := State.screen_admitted_port hverdict
        exact htaken.admission meter
  | place p => exact hs.withOutput ((hs.units p).placeOldest s.now) fun _ _ => rfl
  | release p => exact hs.withOutput (hs.units p).releaseOne fun _ _ => rfl

/-- A request that is dispatched leaves the hold queue and is a transaction of the same port (R96). -/
theorem State.Owing.dispatchReq {due : Port → Nat} {r : HeldReq} (hs : s.Owing due) (hr : r ∈ s.held) :
    (s.dispatchReq r).Owing due := by
  have hbusy := hs.congr
    (s.books_withStation r.station.toNat { s.station r.station.toNat with state := .busy })
  refine hbusy.moved rfl hbusy.slots fun p => ?_
  have hleft := length_filter_erase_of_port HeldReq.port hr p
  have hjoined := length_filter_concat_of_port Entry.port s.entries
    (r.entry (allocTag s.entries 16 s.tagCounter)) p
  have hport : (r.entry (allocTag s.entries 16 s.tagCounter)).port = r.port := rfl
  rw [hport] at hjoined
  simp only [State.outstanding, State.dispatchReq, State.withStation_toScreen, State.withStation_slots,
    State.withStation_held, State.withStation_entries, State.withStation_store]
  omega

theorem dispatch_owing (hs : s.Owing 0) (h : execDispatch s = .next t) : t.Owing 0 := by
  refine hs.of_whenRunning h ?_
  split
  · exact hs
  case h_2 pick hpick =>
    have hreq := hs.dispatchReq (State.held_of_arbiter hpick).1
    split
    · exact hreq.congr rfl
    · exact hreq

theorem hitCountRaise_owing {station : Byte} {block : Nat} (hs : s.Owing 0)
    (h : execHitCountRaise station block s = .next t) : t.Owing 0 := by
  refine hs.of_whenRunning h (hs.congr ?_)
  dsimp only
  split <;> rfl

theorem meterRefill_owing {n : Nat} (hs : s.Owing 0) (h : execMeterRefill n s = .next t) : t.Owing 0 := by
  refine hs.of_whenRunning h (hs.congr ?_)
  split
  · rfl
  · split
    · rfl
    · exact State.books_withMeter _ _ _

theorem isolatedPurge_owing (hs : s.Owing 0) (h : execIsolatedPurge s = .next t) : t.Owing 0 := by
  refine hs.of_whenRunning h ?_
  split
  · exact hs
  case h_2 n _ => exact (hs.congr rfl : ({ s with isolatedPurges := n } : State).Owing 0).purge _ _

/-! ### Transactions and stations -/

theorem fieldTransmissionEnd_owing (hs : s.Owing 0) (h : execFieldTransmissionEnd s = .next t) :
    t.Owing 0 := by
  refine hs.of_whenRunning h ?_
  split
  case h_1 a _ =>
    refine hs.moved rfl hs.slots fun p => ?_
    have hport : (fun e : Entry => decide (e.port = p)) ∘ Entry.sent a
        = fun e => decide (e.port = p) := by
      funext e
      simp only [Function.comp, Entry.sent]
      split <;> rfl
    simp only [State.outstanding, List.filter_map, hport, List.length_map]
  · exact hs.congr rfl
  · exact hs

/-- What a deadline makes due is answered: its transaction, and the requests that a quarantine purges (R116,
R117, R104). -/
theorem State.Owing.deadlineClaims {due : Port → Nat} {e : Entry} {quarantined : Bool}
    (hs : s.Owing (due + Pi.single e.port 1))
    (hbooks : t.books = { s.books with
      held := if quarantined then s.held.filter (fun r => !(r.station = e.station)) else s.held }) :
    ((t.inSomeOrder (deadlineClaims e s.held quarantined .a)).inSomeOrder
      (deadlineClaims e s.held quarantined .b)).Owing due := by
  have hanswer : Pays (Pi.single e.port 1) (State.answer e.port [e.relayRsp .timeout]) :=
    Pays.answer (run := [e.relayRsp .timeout]) (List.forall_mem_singleton.2 (.inl rfl))
  cases quarantined with
  | false =>
    rw [deadlineClaims_of_not_quarantined]
    exact hanswer _ due (hs.congr hbooks)
  | true =>
    have hdropped := (hs.dropHeld (·.station = e.station) .noStation).congr hbooks
    have hpurge (p : Port) := Pays.answer (p := p)
      (isAnswer_of_mem_purgeRun (held := s.held) (sel := (·.station = e.station)) (st := .noStation) (p := p))
    refine PaysAll.taken (.cons hanswer (.cons (hpurge .a) (.cons (hpurge .b)
      (.cons (.request _ _ .a) (.one (.request _ _ .b)))))) (deadlineClaims_of_quarantined t e s.held) ?_
    rw [add_zero, add_zero, single_add_single fun p =>
      (purgeRun s.held (fun r => r.station = e.station) .noStation p).length, ← add_assoc]
    exact hdropped

theorem deadline_owing {tag : Byte} (hs : s.Owing 0) (h : execDeadline tag s = .next t) : t.Owing 0 := by
  refine hs.of_whenRunning h ?_
  split
  · exact hs
  case h_2 e due hfound =>
    refine State.Owing.deadlineClaims (s := { s with entries := s.entries.erase e })
      (hs.ended (State.mem_of_waitingEntry hfound) rfl) ?_
    simp [State.books]

theorem holdTimerExpiry_owing {n : Nat} (hs : s.Owing 0) (h : execHoldTimerExpiry n s = .next t) :
    t.Owing 0 := by
  refine hs.of_whenRunning h ?_
  split
  · exact hs
  case h_2 due _ =>
    exact ((hs.congr rfl : (s.reach due).Owing 0).congr (State.books_withStation _ _ _)).requestBoth _ _

/-! ### The lease groups -/

theorem leaseTake_owing (hs : s.Owing 0) (h : execLeaseTake s = .next t) : t.Owing 0 := by
  refine hs.of_whenOp h fun m hm => ?_
  split
  · dsimp only
    split
    · exact hs.finish hm rfl
    · split
      · split
        · exact hs.finish hm (s.books_withLease _ _)
        · exact hs.finish hm rfl
      · exact hs.finish hm (s.books_withLease _ _)
  · exact hs.finish hm rfl

theorem leaseRenew_owing (hs : s.Owing 0) (h : execLeaseRenew s = .next t) : t.Owing 0 := by
  refine hs.of_whenOp h fun m hm => ?_
  split
  · split
    · exact hs.finish hm rfl
    · split
      · split
        · exact hs.finish hm (s.books_withLease _ _)
        · exact hs.finish hm rfl
      · exact hs.finish hm rfl
  · exact hs.finish hm rfl

/-- The requests that the loss of a group purges are due (R88). -/
theorem State.Owing.loseGroup {due : Port → Nat} (hs : s.Owing due) (p : Port) (g : Nat) :
    (s.loseGroup p g).Owing (due + Pi.single p (s.lossRun p g).length) := by
  have hfreed := hs.congr (s.books_withLease g none)
  have hdropped := hfreed.dropHeldOf (fun r hr => ((HeldReq.lostWith_iff p g r).1 hr).1) .leaseLost
  rwa [State.withLease_held] at hdropped

theorem leaseRelease_owing (hs : s.Owing 0) (h : execLeaseRelease s = .next t) : t.Owing 0 := by
  refine hs.of_whenOp h fun m hm => ?_
  split
  case h_1 g _ =>
    split
    · exact hs.finish hm rfl
    · split
      · split
        · have hmga : Pays (Pi.single m.port 1) (State.answer m.port [m.answer .done [g]]) :=
            Pays.answer (run := [m.answer .done [g]]) (List.forall_mem_singleton.2 (.inr rfl))
          refine ((PaysAll.runClaim isAnswer_of_mem_purgeRun).append (.one hmga)).inSomeOrder ?_
          rw [add_comm (Pi.single m.port _), ← add_assoc]
          exact (hs.freeSlot hm).loseGroup m.port g.toNat
        · exact hs.finish hm rfl
      · exact hs.finish hm rfl
  case h_2 => exact hs.finish hm rfl

/-- The answers of a purge and one notice request (R89). -/
theorem State.Owing.purgeClaims {due : Port → Nat} {p : Port} {held : List HeldReq} {sel : HeldReq → Bool}
    {st : RelayStatus} (hs : s.Owing (due + Pi.single p (purgeRun held sel st p).length)) (f : NoticeFlag)
    (d : Detail) :
    (s.inSomeOrder (runClaim p (purgeRun held sel st p) ++ [State.request f d p])).Owing due := by
  refine ((PaysAll.runClaim isAnswer_of_mem_purgeRun).append (.one (.request f d p))).inSomeOrder ?_
  rwa [add_zero]

theorem leaseExpiry_owing {g : Nat} (hs : s.Owing 0) (h : execLeaseExpiry g s = .next t) : t.Owing 0 := by
  refine hs.of_whenRunning h ?_
  split
  · exact hs
  case h_2 l _ =>
    have hreached : (s.reach l.expiry).Owing 0 := hs.congr rfl
    exact (hreached.loseGroup l.holder g).purgeClaims _ _

theorem leaseReleaseOnLinkDown_owing {p : Port} (hs : s.Owing 0)
    (h : execLeaseReleaseOnLinkDown p s = .next t) : t.Owing 0 := by
  refine hs.of_whenRunning h ?_
  split
  · exact hs
  case h_2 n _ =>
    dsimp only
    split
    · exact hs.congr rfl
    case h_2 g more hgroups =>
      have hdropped := hs.dropHeldOf
        (fun r hr => ((HeldReq.lostWithAny_iff s p r).1 hr).1) .leaseLost
      rw [← hgroups]
      refine State.Owing.purgeClaims ?_ _ _
      exact hdropped.congr rfl

/-! ### Output units, notices and the session -/

theorem portSendEnd_owing {p : Port} (hs : s.Owing 0) (h : execPortSendEnd p s = .next t) : t.Owing 0 := by
  refine hs.of_whenRunning h ?_
  split
  · exact hs
  case h_2 x _ =>
    have hreached : (s.reach (s.sendEnd (.control p) x.telegram x.startedAt)).Owing 0 := hs.congr rfl
    exact hreached.withOutput ((hreached.units p).endSending _) fun _ _ => rfl

theorem noticeRepeatExpiry_owing {p : Port} (hs : s.Owing 0) (h : execNoticeRepeatExpiry p s = .next t) :
    t.Owing 0 := by
  refine hs.of_whenRunning h ?_
  split
  · exact hs
  case h_2 due _ =>
    dsimp only
    split
    · exact (hs.congr rfl : (s.reach due).Owing 0).offerNtc p
    · exact hs.congr rfl

theorem noticeAck_owing (hs : s.Owing 0) (h : execNoticeAck s = .next t) : t.Owing 0 := by
  refine hs.of_whenOp h fun m hm => ?_
  split <;> exact hs.finish hm rfl

theorem sessionOpen_owing (hs : s.Owing 0) (h : execSessionOpen s = .next t) : t.Owing 0 := by
  refine hs.of_whenOp h fun m hm => ?_
  split
  · split
    · exact hs.finish hm rfl
    · split
      · split
        · exact hs.finish hm rfl
        · split <;> exact hs.finish hm rfl
      · split <;> exact hs.finish hm rfl
  · exact hs.finish hm rfl

theorem sessionClose_owing (hs : s.Owing 0) (h : execSessionClose s = .next t) : t.Owing 0 :=
  hs.of_whenOp h fun _ hm => hs.of_whenOwner hm fun _ => hs.finish hm rfl

theorem sessionIdleExpiry_owing (hs : s.Owing 0) (h : execSessionIdleExpiry s = .next t) : t.Owing 0 := by
  refine hs.of_whenRunning h ?_
  split
  · exact hs
  case h_2 x _ =>
    exact (hs.congr rfl : ((s.reach x.idle).withSession none).Owing 0).request _ _ _

theorem sessionEndOnLinkDown_owing {p : Port} (hs : s.Owing 0)
    (h : execSessionEndOnLinkDown p s = .next t) : t.Owing 0 := by
  refine hs.of_whenRunning h ?_
  split
  · exact hs
  case h_2 n _ =>
    dsimp only
    split
    · split
      · refine State.Owing.request ?_ _ _ _
        exact hs.congr rfl
      · exact hs.congr rfl
    · exact hs.congr rfl

/-! ### The change list -/

theorem State.Owing.stageParsed {m : Mgt} (hs : s.Owing 0) (hm : s.slots.head? = some m)
    (item : Option ListItem) : (s.stageParsed m item).Owing 0 := by
  refine hs.of_whenOwner hm fun x => ?_
  split
  · exact hs.finish hm rfl
  · unfold State.stage
    split
    · exact hs.finish hm rfl
    · split <;> exact hs.finish hm rfl

theorem stageConfig_owing (hs : s.Owing 0) (h : execStageConfig s = .next t) : t.Owing 0 :=
  hs.of_whenOp h fun _ hm => hs.stageParsed hm _

theorem stageAdd_owing (hs : s.Owing 0) (h : execStageAdd s = .next t) : t.Owing 0 :=
  hs.of_whenOp h fun _ hm => hs.stageParsed hm _

theorem stageModify_owing (hs : s.Owing 0) (h : execStageModify s = .next t) : t.Owing 0 :=
  hs.of_whenOp h fun _ hm => hs.stageParsed hm _

theorem stageDelete_owing (hs : s.Owing 0) (h : execStageDelete s = .next t) : t.Owing 0 :=
  hs.of_whenOp h fun _ hm => hs.stageParsed hm _

theorem discard_owing (hs : s.Owing 0) (h : execDiscard s = .next t) : t.Owing 0 :=
  hs.of_whenOp h fun _ hm => hs.of_whenOwner hm fun _ => hs.finish hm rfl

theorem apply_owing (hs : s.Owing 0) (h : execApply s = .next t) : t.Owing 0 := by
  refine hs.of_whenOp h fun m hm => hs.of_whenOwner hm fun x => ?_
  split
  · exact hs.finish hm rfl
  · split
    · exact hs.finish hm rfl
    · split
      · exact hs.finish hm rfl
      · exact hs.finish hm ((State.books_maskChangeIf _ _ _).trans (State.books_maskChangeIf _ _ _))

theorem listRead_owing (hs : s.Owing 0) (h : execListRead s = .next t) : t.Owing 0 := by
  refine hs.of_whenOp h fun m hm => hs.of_whenOwner hm fun x => ?_
  split
  · split
    · exact hs.finish hm rfl
    · split <;> exact hs.finish hm rfl
  · exact hs.finish hm rfl

/-! ### The reads and the mode -/

theorem unknownOp_owing (hs : s.Owing 0) (h : execUnknownOp s = .next t) : t.Owing 0 :=
  hs.of_whenMgt h fun _ hm => hs.finish hm rfl

theorem echo_owing (hs : s.Owing 0) (h : execEcho s = .next t) : t.Owing 0 :=
  hs.of_whenMgt h fun _ hm => hs.finish hm rfl

theorem leaseStatus_owing (hs : s.Owing 0) (h : execLeaseStatus s = .next t) : t.Owing 0 :=
  hs.of_whenOp h fun _ hm => hs.finish hm rfl

theorem readStore_owing (hs : s.Owing 0) (h : execReadStore s = .next t) : t.Owing 0 :=
  hs.of_whenOp h fun _ hm => hs.finish hm rfl

theorem readConfig_owing (hs : s.Owing 0) (h : execReadConfig s = .next t) : t.Owing 0 := by
  refine hs.of_whenOp h fun m hm => ?_
  split
  · split <;> exact hs.finish hm rfl
  · exact hs.finish hm rfl

theorem readEntry_owing (hs : s.Owing 0) (h : execReadEntry s = .next t) : t.Owing 0 := by
  refine hs.of_whenOp h fun m hm => ?_
  split
  · exact hs.finish hm rfl
  · split <;> exact hs.finish hm rfl

theorem readBucket_owing (hs : s.Owing 0) (h : execReadBucket s = .next t) : t.Owing 0 := by
  refine hs.of_whenOp h fun m hm => ?_
  split
  · split <;> exact hs.finish hm rfl
  · exact hs.finish hm rfl

theorem readStation_owing (hs : s.Owing 0) (h : execReadStation s = .next t) : t.Owing 0 := by
  refine hs.of_whenOp h fun m hm => ?_
  split
  · split <;> exact hs.finish hm rfl
  · exact hs.finish hm rfl

theorem readCounters_owing (hs : s.Owing 0) (h : execReadCounters s = .next t) : t.Owing 0 := by
  refine hs.of_whenOp h fun m hm => ?_
  split
  · split <;> exact hs.finish hm rfl
  · exact hs.finish hm rfl

theorem clearCounters_owing (hs : s.Owing 0) (h : execClearCounters s = .next t) : t.Owing 0 :=
  hs.of_whenOp h fun _ hm => hs.of_whenOwner hm fun _ => hs.finish hm rfl

/-- The MGA of SET_MODE is handed on with its reservation (R57). -/
theorem setMode_owing (hs : s.Owing 0) (h : execSetMode s = .next t) : t.Owing 0 := by
  refine hs.of_whenOp h fun m hm => hs.of_whenOwner hm fun x => ?_
  split
  · split
    case h_1 mode _ =>
      have hentered : (s.enterMode mode).Owing 0 := hs.congr rfl
      exact (hentered.freeSlot hm).handOn (.inr rfl)
    case h_2 => exact hs.finish hm rfl
  · exact hs.finish hm rfl

/-! ### The store and RESTART -/

/-- The MGT of a store operation leaves its slot and is the one of the operation in flight (R167). -/
theorem State.Owing.startStore {m : Mgt} (hs : s.Owing 0) (hm : s.slots.head? = some m)
    (hnone : s.store.op = none) (kind : StoreKind) : (s.startStore m kind).Owing 0 := by
  have hfree := hs.freeSlot hm
  refine hfree.moved rfl hfree.slots fun p => ?_
  have hjoined (op : StoreOp) := length_filter_cons_of_port StoreOp.port op [] p
  simp only [State.outstanding, State.startStore, State.freeSlot, hnone, Option.toList_some,
    Option.toList_none, hjoined, Pi.add_apply, Pi.zero_apply]
  omega

/-- A store operation is started only while none is in flight (R166). -/
theorem State.op_none_of_storeRefusal {x : Session} {kind : StoreKind} (h : s.storeRefusal x kind = none) :
    s.store.op = none := by
  unfold State.storeRefusal at h
  split at h
  · cases h
  case isFalse hidle => simpa using hidle

theorem State.Owing.storeOperation {kind : StoreKind} (hs : s.Owing 0)
    (h : s.storeOperation kind = .next t) : t.Owing 0 := by
  refine hs.of_whenOp h fun m hm => hs.of_whenOwner hm fun x => ?_
  split
  · exact hs.finish hm rfl
  case h_2 hpasses => exact hs.startStore hm (State.op_none_of_storeRefusal hpasses) kind

/-- The answer of the operation in flight is due when it ends (R169, R170). -/
theorem State.Owing.storeEnds {due : Port → Nat} {op : StoreOp} (hs : s.Owing due)
    (hop : s.store.op = some op) (hbooks : t.books = { s.books with op := none }) :
    t.Owing (due + Pi.single op.port 1) := by
  obtain ⟨houtputs, htoScreen, hslots, hheld, hentries, hnone⟩ := Books.mk.inj hbooks
  refine hs.moved houtputs (hslots ▸ hs.slots) fun p => ?_
  simp only [State.books] at htoScreen hslots hheld hentries
  have hcount := length_filter_cons_of_port StoreOp.port op [] p
  simp only [State.outstanding, htoScreen, hslots, hheld, hentries, hnone, hop, Option.toList_some,
    Option.toList_none, Pi.add_apply]
  omega

/-- The MGA of the operation, and its notice on both ports (R169, R170). -/
theorem State.Owing.storeReport {due : Port → Nat} {op : StoreOp}
    (hs : s.Owing (due + Pi.single op.port 1)) (st : MgtStatus) (data : List Byte) (f : NoticeFlag) :
    (s.storeReport op st data f).Owing due := by
  have hmga : Pays (Pi.single op.port 1)
      (State.answer op.port [mga op.source op.tag op.kind.opCode st data]) :=
    Pays.answer (run := [mga op.source op.tag op.kind.opCode st data]) (List.forall_mem_singleton.2 (.inr rfl))
  refine State.Owing.request (PaysAll.inSomeOrder (.cons hmga (.one (.request f .nothing op.port))) ?_) _ _ _
  rwa [add_zero]

theorem State.Owing.storeFailure {op : StoreOp} (hs : s.Owing 0) (hop : s.store.op = some op) (cause : Byte) :
    (s.storeFailure op cause).Owing 0 :=
  (hs.storeEnds hop rfl).storeReport _ _ _

theorem storeWriteEnd_owing {result : ReadBack} (hs : s.Owing 0) (h : execStoreWriteEnd result s = .next t) :
    t.Owing 0 := by
  refine hs.of_whenRunning h ?_
  split
  · exact hs
  case h_2 op hop =>
    cases result with
    | equal =>
      refine (hs.storeEnds hop ?_).storeReport _ _ _
      cases op.kind <;> rfl
    | mismatch => exact hs.storeFailure hop 2

theorem storeLimitExpiry_owing (hs : s.Owing 0) (h : execStoreLimitExpiry s = .next t) : t.Owing 0 := by
  refine hs.of_whenRunning h ?_
  split
  · exact hs
  case h_2 op hop => exact State.Owing.storeFailure (s := s.reach op.limit) (hs.congr rfl) hop 1

theorem restart_owing (hs : s.Owing 0) (h : execRestart s = .next t) : t.Owing 0 := by
  refine hs.of_whenOp h fun m hm => hs.of_whenOwner hm fun x => ?_
  split
  · exact hs.finish hm rfl
  · exact hs.congr rfl

theorem restartHoldAndLeasePart_owing (hs : s.Owing 0) (h : execRestartHoldAndLeasePart s = .next t) :
    t.Owing 0 := by
  refine hs.of_whenRestarting h fun _ => State.Owing.purge ?_ _ _
  exact hs.congr rfl

/-- Every transaction is answered (R125). -/
theorem restartTransactionPart_owing (hs : s.Owing 0) (h : execRestartTransactionPart s = .next t) :
    t.Owing 0 := by
  refine hs.of_whenRestarting h fun r => ?_
  dsimp only
  rw [State.inSomeOrder_runClaim, State.inSomeOrder_runClaim]
  refine State.Owing.answerBoth (hs.moved rfl hs.slots fun p => ?_) fun p answer hanswer => ?_
  · simp only [State.outstanding, abortedRun, List.length_map, List.filter_nil, List.length_nil, Pi.add_apply]
    omega
  · obtain ⟨e, _, rfl⟩ := List.mem_map.1 hanswer
    exact .inl rfl

theorem restartNoticePart_owing {p : Port} (hs : s.Owing 0) (h : execRestartNoticePart p s = .next t) :
    t.Owing 0 := by
  refine hs.of_whenRestarting h fun _ => State.Owing.congr ?_ (State.books_maskChange _ p)
  refine State.Owing.request ?_ _ _ _
  exact hs.congr rfl

theorem restartAnswer_owing (hs : s.Owing 0) (h : execRestartAnswer s = .next t) : t.Owing 0 := by
  refine hs.of_whenRestarting h fun _ => ?_
  split
  case h_1 m more hslots => exact hs.finish (by rw [hslots]; rfl) rfl
  case h_2 => exact hs

end Commands

/-! ### Every command -/

/-- Every command leaves a reservation for exactly what is still owed. -/
theorem exec_owing {c : Instr} {s t : State} (hs : s.Owing 0) (h : exec c s = .next t) : t.Owing 0 := by
  cases c with
  | powerOn => exact powerOn_owing hs h
  | powerFail => exact powerFail_owing hs h
  | resetNFall => exact resetNFall_owing hs h
  | pinReset => exact pinReset_owing hs h
  | startUpLoadEnd => exact startUpLoadEnd_owing hs h
  | framingError l x => exact framingError_owing hs h
  | frameGapPause l => exact frameGapPause_owing hs h
  | controlTelegram p last => exact controlTelegram_owing hs h
  | silenceTimerExpiry x => exact silenceTimerExpiry_owing hs h
  | leaseReleaseOnLinkDown p => exact leaseReleaseOnLinkDown_owing hs h
  | sessionEndOnLinkDown p => exact sessionEndOnLinkDown_owing hs h
  | fieldTelegram last => exact fieldTelegram_owing hs h
  | screening x => exact screening_owing hs h
  | hitCountRaise station block => exact hitCountRaise_owing hs h
  | dispatch => exact dispatch_owing hs h
  | fieldTransmissionEnd => exact fieldTransmissionEnd_owing hs h
  | deadline tag => exact deadline_owing hs h
  | holdTimerExpiry n => exact holdTimerExpiry_owing hs h
  | meterRefill n => exact meterRefill_owing hs h
  | leaseExpiry g => exact leaseExpiry_owing hs h
  | isolatedPurge => exact isolatedPurge_owing hs h
  | portSendEnd p => exact portSendEnd_owing hs h
  | noticeRepeatExpiry p => exact noticeRepeatExpiry_owing hs h
  | sessionIdleExpiry => exact sessionIdleExpiry_owing hs h
  | unknownOp => exact unknownOp_owing hs h
  | echo => exact echo_owing hs h
  | sessionOpen => exact sessionOpen_owing hs h
  | sessionClose => exact sessionClose_owing hs h
  | readConfig => exact readConfig_owing hs h
  | stageConfig => exact stageConfig_owing hs h
  | stageAdd => exact stageAdd_owing hs h
  | stageModify => exact stageModify_owing hs h
  | stageDelete => exact stageDelete_owing hs h
  | listRead => exact listRead_owing hs h
  | apply => exact apply_owing hs h
  | discard => exact discard_owing hs h
  | commit => exact hs.storeOperation h
  | setLock => exact hs.storeOperation h
  | eraseProtected => exact hs.storeOperation h
  | readEntry => exact readEntry_owing hs h
  | readBucket => exact readBucket_owing hs h
  | readStation => exact readStation_owing hs h
  | readCounters => exact readCounters_owing hs h
  | clearCounters => exact clearCounters_owing hs h
  | leaseTake => exact leaseTake_owing hs h
  | leaseRenew => exact leaseRenew_owing hs h
  | leaseRelease => exact leaseRelease_owing hs h
  | leaseStatus => exact leaseStatus_owing hs h
  | noticeAck => exact noticeAck_owing hs h
  | setMode => exact setMode_owing hs h
  | readStore => exact readStore_owing hs h
  | restart => exact restart_owing hs h
  | restartHoldAndLeasePart => exact restartHoldAndLeasePart_owing hs h
  | restartTransactionPart => exact restartTransactionPart_owing hs h
  | restartNoticePart p => exact restartNoticePart_owing hs h
  | restartAnswer => exact restartAnswer_owing hs h
  | storeWriteEnd result => exact storeWriteEnd_owing hs h
  | storeLimitExpiry => exact storeLimitExpiry_owing hs h
  | characterReceived l x => exact characterReceived_owing hs h

/-- Settles O56: a tick changes nothing that the invariant reads, and every command keeps it. -/
theorem everyStepKeepsTheAnswers : Obligations.EveryStepKeepsTheAnswers := by
  intro s t hs h
  have hs0 := State.answersOk_iff_owing.1 hs
  refine State.answersOk_iff_owing.2 ?_
  unfold step at h
  split at h
  case h_1 =>
    cases h
    exact hs0.congr rfl
  case h_2 rest _ => exact exec_owing (s := { s with pending := rest }) (hs0.congr rfl) h

end Sys2Proof.Machine

/-! ## Transmit lines and the end of a sending (R18, R19, R131) -/

namespace Sys2Proof.Machine

/-! ### The level of a transmit line -/

/-- In lists of the same length put one behind another, the place of an element is that of its list and the
place in it. -/
theorem getElem?_flatMap_of_length {α β : Type} {f : α → List β} {w i : Nat}
    (hlength : ∀ a, (f a).length = w) (hi : i < w) (l : List α) (k : Nat) :
    (l.flatMap f)[w * k + i]? = (l[k]?).bind fun a => (f a)[i]? := by
  induction l generalizing k with
  | nil => rfl
  | cons a l ih =>
    rw [List.flatMap_cons]
    cases k with
    | zero => rw [Nat.mul_zero, Nat.zero_add, List.getElem?_append_left (by rwa [hlength])]; rfl
    | succ k =>
      have hplace : w * (k + 1) + i = (f a).length + (w * k + i) := by
        rw [hlength, Nat.mul_succ]
        omega
      rw [hplace, List.getElem?_append_right (Nat.le_add_right _ _), Nat.add_sub_cancel_left, ih]
      rfl

theorem characterBits_length (c : Byte) : (characterBits c).length = 10 := rfl

/-- The start bit, the data bits from the least significant on, and the stop bit (R18). -/
theorem characterBits_getElem? (c : Byte) {i : Nat} (hi : i < 10) :
    (characterBits c)[i]? = some (if i = 0 then false else if i = 9 then true else c.getLsbD (i - 1)) := by
  interval_cases i <;> rfl

/-- Bit `i` of character `k` of a telegram is on the line for one bit time (R18, R19). -/
theorem Telegram.level_of_bit {t : Telegram} {bit k i r : Nat} {c : Byte} (hc : t.bytes[k]? = some c)
    (hi : i < 10) (hr : r < bit) :
    t.level bit ((10 * k + i) * bit + r)
      = if i = 0 then false else if i = 9 then true else c.getLsbD (i - 1) := by
  have hplace : ((10 * k + i) * bit + r) / bit = 10 * k + i := by
    rw [Nat.mul_comm, Nat.mul_add_div (Nat.zero_lt_of_lt hr), Nat.div_eq_of_lt hr, Nat.add_zero]
  rw [Telegram.level, hplace, getElem?_flatMap_of_length characterBits_length hi, hc, Option.bind_some,
    characterBits_getElem? c hi, Option.getD_some]

/-! ### The end of a sending (R131) -/

/-- A sending ends (11 + L) × 10 bit times after it began (R19). -/
theorem State.sendEnd_eq (s : State) (l : Line) (t : Telegram) (startedAt : Nat) :
    s.sendEnd l t startedAt
      = startedAt + (11 + t.data.length) * 10 * (32000000 / s.runningRate.get l) := rfl

@[simp] theorem State.output_reach (s : State) (moment : Nat) (p : Port) :
    (s.reach moment).output p = s.output p := rfl

/-- The telegram leaves the section it was taken from, and the next choice is made (R131). -/
theorem OutputUnit.endSending_of_busy {o : OutputUnit} {x : Sending} (hbusy : o.sending = some x) (now : Nat) :
    o.endSending now = OutputUnit.choose now (match x.part with
      | .answer => { o with answers := o.answers.tail, sending := none }
      | .event => { o with events := o.events.tail, sending := none }) := by
  unfold OutputUnit.endSending
  rw [hbusy]
  cases hpart : x.part <;> simp only [hpart]

/-- Settles O31: the end of a sending, and the level of a line that is at rest or sends. -/
theorem portSendingEnds : Obligations.PortSendingEnds := by
  refine ⟨fun s p x hrun hbusy => ?ends, fun s l hrun => ?level⟩
  case ends =>
    simp only [exec, execPortSendEnd, State.whenRunning_running hrun, hbusy, State.sendEnd_eq,
      State.output_reach, OutputUnit.endSending_of_busy hbusy]
    rfl
  case level =>
    cases l with
    | control p =>
      refine ⟨fun hrest => ?_, fun t start k i r c ⟨part, hbusy⟩ hc hi hr hnow => ?_⟩
      · simp only [State.txLevel, hrun]
        split
        case h_1 x hbusy => exact absurd ⟨x.part, hbusy⟩ (hrest x.telegram x.startedAt)
        case h_2 => rfl
      · simp only [State.txLevel, hrun, hbusy, hnow, Nat.add_assoc start, Nat.add_sub_cancel_left]
        exact Telegram.level_of_bit hc hi hr
    | field =>
      refine ⟨fun hrest => ?_, fun t start k i r c ⟨x, hbusy, ht, hstart⟩ hc hi hr hnow => ?_⟩
      · simp only [State.txLevel, hrun]
        split
        case h_1 x hbusy => exact absurd ⟨x, hbusy, rfl, rfl⟩ (hrest x.telegram x.startedAt)
        case h_2 => rfl
      · simp only [State.txLevel, hrun, hbusy, ht, hstart, hnow, Nat.add_assoc start, Nat.add_sub_cancel_left]
        exact Telegram.level_of_bit hc hi hr

end Sys2Proof.Machine

/-! ## Notices: the request, the repeat timer and NOTICE_ACK (R134 to R138) -/

namespace Sys2Proof.Machine

/-! ### The offer of an NTC (R16, R137) -/

/-- The NTC that shows the enabled pending flags (R16). -/
theorem NoticeState.ntc_eq (n : NoticeState) (mask : BitVec 10) :
    n.ntc mask = ⟨.ntc, 0, 0, 63, n.seq, 0, 0, n.data (n.flags &&& mask)⟩ := by
  have hcause : n.cause.code = match n.cause with | .powerOn => 1 | .pin => 2 | .restart => 3 := by
    cases n.cause <;> rfl
  have hslot : startSlotCode n.startSlot
      = match n.startSlot with | some i => (if i = 0 then 0 else 1) | none => 0xFF := by
    rcases n.startSlot with _ | i
    · rfl
    · fin_cases i <;> rfl
  have hmark : byteOf n.fallback.toNat = if n.fallback then 1 else 0 := by cases n.fallback <;> rfl
  rw [NoticeState.ntc, hcause, hslot, hmark]
  rfl

theorem State.announces_iff (s : State) (p : Port) :
    s.announces p = true ↔ (s.notice p).flags &&& s.settings.noticeMask.get p ≠ 0 := by
  rw [State.announces, bne_iff_ne, State.mask]

/-- The notice state of a port replaced twice holds the second value. -/
theorem State.withNotice_withOutput_withNotice (s : State) (p : Port) (n n' : NoticeState)
    (o : OutputUnit) :
    ((s.withNotice p n).withOutput p o).withNotice p n' = (s.withOutput p o).withNotice p n' := by
  simp only [State.withNotice, State.withOutput, PerPort.set_set]

theorem State.withNotice_withNotice (s : State) (p : Port) (n n' : NoticeState) :
    (s.withNotice p n).withNotice p n' = s.withNotice p n' := by
  simp only [State.withNotice, PerPort.set_set]

/-- The notice state with its repeat timer started afresh (R136). -/
def State.repeating (s : State) (p : Port) : NoticeState :=
  { s.notice p with timer := some (s.now + 32000 * s.settings.noticeRepeat) }

theorem State.startRepeat_eq (s : State) (p : Port) : s.startRepeat p = s.withNotice p (s.repeating p) := by
  rw [State.startRepeat, State.inMs, msTicks, Nat.mul_comm]
  rfl

section Offer
variable {s : State} {p : Port}

/-- An NTC that finds no place is skipped, and the repeat timer is started afresh (R137). -/
theorem State.offerNtc_of_full (h : (s.notice p).flags &&& s.settings.noticeMask.get p ≠ 0)
    (hfull : 16 ≤ (s.output p).events.length) : s.offerNtc p = s.withNotice p (s.repeating p) := by
  rw [State.offerNtc, if_pos ((s.announces_iff p).2 h), State.startRepeat_eq]
  exact if_neg (Nat.not_lt.2 hfull)

/-- An NTC that finds a place carries the sequence, which then advances (R137). -/
theorem State.offerNtc_of_room (h : (s.notice p).flags &&& s.settings.noticeMask.get p ≠ 0)
    (hroom : (s.output p).events.length < 16) :
    s.offerNtc p = (s.withOutput p ((s.output p).placeEvent s.now ⟨.ntc, 0, 0, 63, (s.notice p).seq, 0, 0,
        (s.notice p).data ((s.notice p).flags &&& s.settings.noticeMask.get p)⟩)).withNotice p
      { s.repeating p with seq := (s.notice p).seq + 1 } := by
  have hroom' : ((s.withNotice p (s.repeating p)).output p).events.length < Config.eventPlaces := hroom
  rw [State.offerNtc, if_pos ((s.announces_iff p).2 h), State.startRepeat_eq]
  dsimp only
  rw [if_pos hroom', State.withNotice_withOutput_withNotice, State.notice_withNotice_same,
    NoticeState.ntc_eq]
  rfl

end Offer

/-! ### A request to set a flag (R134, R135) -/

/-- A detail leaves the flags and the sequence as they are (R135). -/
theorem NoticeState.note_keeps (n : NoticeState) (d : Detail) :
    (n.note d).flags = n.flags ∧ (n.note d).seq = n.seq := by
  cases d <;> exact ⟨rfl, rfl⟩

section Request
variable {s : State} {f : NoticeFlag} {p : Port}

/-- A flag that is pending stays pending, and its detail is written (R135). -/
theorem State.request_of_pending (d : Detail) (hpending : (s.notice p).flags.getLsbD f.bit = true) :
    s.request f d p = s.withNotice p ((s.notice p).note d) := by
  rw [← ((s.notice p).note_keeps d).1] at hpending
  rw [State.request]
  exact if_pos hpending

/-- A flag that was clear is pending, and an NTC is offered when it is enabled (R135). -/
theorem State.request_of_clear (d : Detail) (hclear : (s.notice p).flags.getLsbD f.bit = false) :
    s.request f d p
      = if (s.settings.noticeMask.get p).getLsbD f.bit
        then (s.withNotice p (((s.notice p).note d).raise f)).offerNtc p
        else s.withNotice p (((s.notice p).note d).raise f) := by
  rw [← ((s.notice p).note_keeps d).1] at hclear
  rw [State.request]
  exact if_neg (by rw [NoticeFlag.isIn, hclear]; exact Bool.false_ne_true)

end Request

/-- An enabled flag that is raised is announced. -/
theorem NoticeState.raise_announced {n : NoticeState} {f : NoticeFlag} {mask : BitVec 10}
    (henabled : mask.getLsbD f.bit = true) : (n.raise f).flags &&& mask ≠ 0 := by
  have hbit : f.bit < 10 := by cases f <;> decide
  intro hzero
  have hget := congrArg (·.getLsbD f.bit) hzero
  simp only [NoticeState.raise, BitVec.getLsbD_and, BitVec.getLsbD_or, BitVec.getLsbD_twoPow, henabled,
    decide_true, hbit, Bool.or_true, Bool.and_true] at hget
  simp at hget

/-- Settles O32: by whether the flag was pending, is enabled, and finds a place for its NTC. -/
theorem noticeRequestIsTaken : Obligations.NoticeRequestIsTaken := by
  intro s f d p bit n noted raised mask restarted ntc
  have hbit : f.bit = bit := by cases f <;> rfl
  have hnoted : n.note d = noted := by cases d <;> rfl
  have hflags : noted.flags = n.flags := hnoted ▸ (n.note_keeps d).1
  have hseq : raised.seq = n.seq := (congrArg NoticeState.seq hnoted).symm.trans (n.note_keeps d).2
  have hraised : (n.note d).raise f = raised := by
    rw [hnoted, NoticeState.raise, hflags, hbit]
  have hoffered (henabled : mask.getLsbD bit = true) :
      ((s.withNotice p raised).notice p).flags &&& mask ≠ 0 := by
    rw [State.notice_withNotice_same, ← hraised]
    exact NoticeState.raise_announced (hbit ▸ henabled)
  have hrepeating : (s.withNotice p raised).repeating p = restarted := by
    rw [State.repeating, State.notice_withNotice_same]
    rfl
  rw [← hbit]
  refine ⟨fun hpending => ?pending, fun hclear hmasked => ?masked, fun hclear henabled hroom => ?placed,
    fun hclear henabled hfull => ?skipped⟩
  case pending => rw [State.request_of_pending d hpending, hnoted]
  case masked =>
    rw [State.request_of_clear d hclear, hraised]
    exact if_neg (by rw [hmasked]; exact Bool.false_ne_true)
  case placed =>
    rw [State.request_of_clear d hclear, hraised, if_pos henabled,
      State.offerNtc_of_room (hoffered (hbit ▸ henabled)) hroom, hrepeating,
      State.withNotice_withOutput_withNotice, State.notice_withNotice_same, hseq]
    rfl
  case skipped =>
    rw [State.request_of_clear d hclear, hraised, if_pos henabled,
      State.offerNtc_of_full (hoffered (hbit ▸ henabled)) hfull, hrepeating, State.withNotice_withNotice]

/-! ### The repeat timer (R136) -/

/-- Settles O33: the timer stops, or an NTC is offered. -/
theorem repeatTimerAnnouncesOrStops : Obligations.RepeatTimerAnnouncesOrStops := by
  intro s p due hrun hdue n now shown restarted at'
  have hexec : exec (.noticeRepeatExpiry p) s = .next (if at'.announces p = true then at'.offerNtc p
      else at'.withNotice p { at'.notice p with timer := none }) := by
    simp only [exec, execNoticeRepeatExpiry, State.whenRunning_running hrun, hdue]
    rfl
  rw [hexec]
  refine ⟨fun hquiet => ?stops, fun hshown hfull => ?skipped, fun hshown hroom => ?placed⟩
  case stops =>
    rw [if_neg (mt (at'.announces_iff p).1 (not_not.2 hquiet))]
    rfl
  case skipped =>
    rw [if_pos ((at'.announces_iff p).2 hshown), State.offerNtc_of_full (s := at') hshown hfull]
    rfl
  case placed =>
    rw [if_pos ((at'.announces_iff p).2 hshown), State.offerNtc_of_room (s := at') hshown hroom]
    rfl

/-! ### NOTICE_ACK (R138) -/

/-- The ten bits of an argument of two bytes. -/
theorem setWidth_append_bytes (hi lo : Byte) :
    (hi ++ lo).setWidth 10 = BitVec.ofNat 10 (hi.toNat * 256 + lo.toNat) := by
  apply BitVec.eq_of_toNat_eq
  rw [BitVec.toNat_setWidth, append_bytes_toNat, BitVec.toNat_ofNat, ofBe16]

/-- Settles O34: the two bytes of the argument are the set of flags that become clear. -/
theorem noticeAckClearsItsPort : Obligations.NoticeAckClearsItsPort := by
  intro s m hi lo hexecutes hcode hdata n flags
  simp only [exec, execNoticeAck, State.whenOp_executes hexecutes hcode, hdata,
    State.finish_eq_answered, setWidth_append_bytes, decide_eq_true_eq]
  rfl

end Sys2Proof.Machine

/-! ## The session of the management processor (R144, R146 to R149) -/

namespace Sys2Proof.Machine

/-- The rows of Table 1-7 whose operations need the session (Table 9-1, R147). -/
theorem mgtLengths_needing_session : (mgtLengths.filter fun row => needsSession row.1)
    = [(0x03, 0, .sessionClose), (0x05, 6, .stageConfig), (0x06, 22, .stageAdd), (0x07, 22, .stageModify),
       (0x08, 3, .stageDelete), (0x09, 1, .listRead), (0x0A, 0, .apply), (0x0B, 0, .discard),
       (0x0C, 0, .commit), (0x0D, 0, .setLock), (0x0E, 0, .eraseProtected), (0x13, 0, .clearCounters),
       (0x19, 1, .setMode), (0x1A, 0, .restart)] := by decide

/-- An operation that needs the session judges its length and then the session, before any check of its own
(R9, R144). -/
theorem exec_judges_session {row : Byte × Nat × Instr} (h : row ∈ mgtLengths)
    (hn : needsSession row.1 = true) :
    ∃ f : Mgt → State → Session → State, ∀ s,
      exec row.2.2 s = s.whenOp row.1 row.2.1 fun m s => s.whenOwner m (f m s) := by
  have hrow : row ∈ mgtLengths.filter fun row => needsSession row.1 := List.mem_filter.2 ⟨h, hn⟩
  rw [mgtLengths_needing_session] at hrow
  fin_cases hrow <;> exact ⟨_, fun _ => rfl⟩

/-- Settles O36: past its length, an operation that needs the session is the session judgement. -/
theorem sessionIsJudgedFirst : Obligations.SessionIsJudgedFirst := by
  intro s m h row hrow hneeds hcode hlength
  obtain ⟨f, hexec⟩ := exec_judges_session hrow hneeds
  rw [hexec, State.whenOp_of_length h hcode hlength]
  refine ⟨fun hnone => ?_, fun x hx ho => ?_⟩
  · rw [State.whenOwner_none m _ hnone]
  · rw [State.whenOwner_other _ hx ho]

/-! ### SESSION_OPEN (R146) -/

/-- The session's idle time, `sessionIdle` seconds, in REFCLK periods (R148). -/
theorem State.idleDue_eq (s : State) :
    s.inMs (s.settings.sessionIdle * 1000) = s.now + 32000000 * s.settings.sessionIdle := by
  simp only [State.inMs, msTicks, Config.ticksPerMs]
  omega

/-- No role has another code than 1 and 2 (Table 1-9). -/
theorem Role.ofCode_eq_none {code : Byte} (h1 : code ≠ 1) (h2 : code ≠ 2) :
    Role.ofCode code.toNat = none := by
  unfold Role.ofCode
  split
  case h_1 h => exact absurd (BitVec.eq_of_toNat_eq h) h1
  case h_2 h => exact absurd (BitVec.eq_of_toNat_eq h) h2
  case h_3 => rfl

/-- The codes of the two roles (Table 1-9). -/
theorem Role.ofCode_of_role (role : Role) :
    Role.ofCode (if role = .operator then 1 else 2 : Byte).toNat = some role := by
  cases role <;> rfl

/-- The lock stops an INTEGRATOR (R146). -/
theorem Role.stopped_iff (role : Role) (lock : Bool) :
    (role = .integrator && lock) = true ↔ role = .integrator ∧ lock = true := by
  rw [Bool.and_eq_true, decide_eq_true_eq]

section Open
variable {s : State} {m : Mgt} {code : Byte} (h : s.Executes m) (hc : m.code = 0x02) (hd : m.data = [code])
include h hc hd

/-- SESSION_OPEN with a code outside the role set (R146). -/
theorem sessionOpen_of_no_role (hrole : Role.ofCode code.toNat = none) :
    exec .sessionOpen s = .next (s.answered m 0x99 []) := by
  simp only [exec, execSessionOpen, State.whenOp_executes h hc, hd, hrole]
  rfl

/-- SESSION_OPEN while no session is open: the lock is judged, then the session opens (R146). -/
theorem sessionOpen_of_none {role : Role} (hrole : Role.ofCode code.toNat = some role)
    (hnone : s.session = none) :
    exec .sessionOpen s = .next (if role = .integrator ∧ s.lock = true then s.answered m 0x93 []
      else State.answered { s with
        session := some ⟨m.port, role, [], s.now + 32000000 * s.settings.sessionIdle⟩ } m 0x00 []) := by
  simp only [exec, execSessionOpen, State.whenOp_executes h hc, hd, hrole, hnone, Role.stopped_iff,
    State.idleDue_eq]
  rfl

/-- SESSION_OPEN while a session is open: its owner is judged, then the lock, then the role changes and the
list is emptied (R146). -/
theorem sessionOpen_of_some {role : Role} {x : Session} (hrole : Role.ofCode code.toNat = some role)
    (hx : s.session = some x) :
    exec .sessionOpen s = .next (if x.owner ≠ m.port then s.answered m 0x91 []
      else if role = .integrator ∧ s.lock = true then s.answered m 0x93 []
      else State.answered { s with session := some { x with role := role, list := [] } } m 0x00 []) := by
  simp only [exec, execSessionOpen, State.whenOp_executes h hc, hd, hrole, hx, Role.stopped_iff]
  rfl

end Open

/-- Settles O37: the role's code first, then the owner of an open session, then the lock. -/
theorem sessionOpens : Obligations.SessionOpens := by
  intro s m code role h hc hd
  refine ⟨fun h1 h2 => sessionOpen_of_no_role h hc hd (Role.ofCode_eq_none h1 h2), ?_⟩
  rintro rfl
  have hrole := Role.ofCode_of_role role
  refine ⟨fun x hx hother => ?other, fun howner hintegrator hlock => ?locked, fun hnone hunlocked => ?opens,
    fun x ⟨hx, howner⟩ hunlocked => ?changes⟩
  case other =>
    have hne : x.owner ≠ m.port := hother ▸ Port.other_ne _
    rw [sessionOpen_of_some h hc hd hrole hx, if_pos hne]
  case locked =>
    cases hx : s.session with
    | none => rw [sessionOpen_of_none h hc hd hrole hx, if_pos ⟨hintegrator, hlock⟩]
    | some x =>
      rw [sessionOpen_of_some h hc hd hrole hx, if_neg (not_not.2 (howner x hx)),
        if_pos ⟨hintegrator, hlock⟩]
  case opens =>
    have hmay : ¬(role = .integrator ∧ s.lock = true) := by simpa using hunlocked
    rw [sessionOpen_of_none h hc hd hrole hnone, if_neg hmay]
  case changes =>
    have hmay : ¬(role = .integrator ∧ s.lock = true) := by simpa using hunlocked
    rw [sessionOpen_of_some h hc hd hrole hx, if_neg (not_not.2 howner), if_neg hmay]

/-! ### The ends of a session (R147 to R149) -/

/-- A DOWN announcement of the session's own port ends it (R149). -/
theorem sessionEndOnLinkDown_of_owner {s : State} {x : Session} {n : Nat} (hrun : s.phase = .running)
    (hx : s.session = some x) (hdown : s.sessionDown.get x.owner = n + 1) :
    exec (.sessionEndOnLinkDown x.owner) s = .next (State.request .sessionEnded .nothing x.owner
      { s with session := none, sessionDown := s.sessionDown.set x.owner n }) := by
  simp only [exec, execSessionEndOnLinkDown, State.whenRunning_running hrun, hdown, hx, if_true]
  rfl

/-- A DOWN announcement of a port that owns no session is taken and does nothing else (R149). -/
theorem sessionEndOnLinkDown_of_no_owner {s : State} {p : Port} {n : Nat} (hrun : s.phase = .running)
    (hdown : s.sessionDown.get p = n + 1) (hnot : ∀ x, s.session = some x → x.owner ≠ p) :
    exec (.sessionEndOnLinkDown p) s = .next { s with sessionDown := s.sessionDown.set p n } := by
  simp only [exec, execSessionEndOnLinkDown, State.whenRunning_running hrun, hdown]
  split
  case h_1 x hx => rw [if_neg (hnot x hx)]
  case h_2 => rfl

/-- Settles O38: SESSION_CLOSE, the idle timer, and a DOWN announcement of either kind of port. -/
theorem sessionEnds : Obligations.SessionEnds := by
  refine ⟨fun s x hx => ⟨fun m h hc hd howner => ?close, fun hrun => ?idle,
    fun n hrun hdown => sessionEndOnLinkDown_of_owner hrun hx hdown⟩, fun s p n hrun hdown hother => ?down⟩
  case close =>
    have hl : m.data.length = 0 := by rw [hd]; rfl
    simp only [exec, execSessionClose, State.whenOp_of_length h hc hl, State.whenOwner_owns _ ⟨hx, howner⟩]
    rfl
  case idle =>
    simp only [exec, execSessionIdleExpiry, State.whenRunning_running hrun, hx]
    rfl
  case down =>
    exact sessionEndOnLinkDown_of_no_owner hrun hdown fun x hx => hother x hx ▸ Port.other_ne p

end Sys2Proof.Machine

/-! ## Operations of the session's owner: staging, the list, the counters and the mode (R57, R58, R151, R152,
R155, R160) -/

namespace Sys2Proof.Machine

/-- The end of an operation of the session's owner whose data have the length Table 1-7 asks for. -/
theorem State.whenOp_owner {s : State} {m : Mgt} {x : Session} {code : Byte} {len : Nat} (h : s.Executes m)
    (ho : s.Owns m x) (hc : m.code = code) (hl : m.data.length = len) (f : Mgt → State → Session → State) :
    (s.whenOp code len fun m s => s.whenOwner m (f m s)) = .next (f m s x) := by
  rw [State.whenOp_of_length h hc hl, State.whenOwner_owns _ ho]

/-! ### Staging (R151, R152) -/

/-- The table holds the key in a protected entry (R152). -/
theorem Table.holdsProtected_iff (t : Table) (k : Key) :
    t.holdsProtected k = true ↔ ∃ w e, t.lookup k = some (w, e) ∧ e.prot = true := by
  unfold Table.holdsProtected
  split
  case h_1 w e hfound => simp [hfound]
  case h_2 hnone => simp [hnone]

/-- The item touches a protected entry: it adds one, or names the key of one that the table holds (R152). -/
theorem ListItem.touchesProtected_iff (item : ListItem) (t : Table) :
    item.touchesProtected t = true ↔
      (match item with
        | .add e => e.prot = true ∨ ∃ w e', t.lookup e.key = some (w, e') ∧ e'.prot = true
        | .modify e => ∃ w e', t.lookup e.key = some (w, e') ∧ e'.prot = true
        | .delete k => ∃ w e', t.lookup k = some (w, e') ∧ e'.prot = true
        | .config _ _ => False) := by
  cases item <;> simp [ListItem.touchesProtected, Table.holdsProtected_iff]

section Staging
variable {s : State} {x : Session}

/-- An OPERATOR may not stage a change of PROTECTED_WAYS (R152). -/
theorem State.stagingRefusal_ways (v : Nat) (hrole : x.role = .operator) :
    s.stagingRefusal x (.config .protectedWays v) = some .wrongRole := by
  simp only [State.stagingRefusal, hrole]

/-- An OPERATOR may not stage an item that touches a protected entry (R152). -/
theorem State.stagingRefusal_prot {item : ListItem} (hrole : x.role = .operator)
    (htouches : item.touchesProtected s.table = true) : s.stagingRefusal x item = some .prot := by
  simp only [State.stagingRefusal, hrole]
  split
  case h_1 => cases htouches
  case h_2 => rw [if_pos htouches]

/-- An INTEGRATOR may stage every item, and an OPERATOR every other one (R152). -/
theorem State.stagingRefusal_none {item : ListItem}
    (h : x.role = .operator → ¬item.touchesProtected s.table = true ∧ ∀ v, item ≠ .config .protectedWays v) :
    s.stagingRefusal x item = none := by
  cases hrole : x.role with
  | integrator => simp only [State.stagingRefusal, hrole]
  | operator =>
    simp only [State.stagingRefusal, hrole]
    split
    case h_1 v => exact absurd rfl ((h hrole).2 v)
    case h_2 => exact if_neg (h hrole).1

/-- A full list takes no item (R151). -/
theorem State.stage_of_full (m : Mgt) (item : ListItem) (h : 32 ≤ x.list.length) :
    s.stage m x item = s.answered m 0x96 [] := if_pos h

theorem State.stage_of_refusal (m : Mgt) {item : ListItem} {st : MgtStatus} (h : x.list.length < 32)
    (hst : s.stagingRefusal x item = some st) : s.stage m x item = s.answered m st.code [] := by
  refine (if_neg (Nat.not_le.2 h)).trans ?_
  rw [hst]
  rfl

/-- The item joins the tail of the list (R151). -/
theorem State.stage_of_pass (m : Mgt) {item : ListItem} (h : x.list.length < 32)
    (hpass : s.stagingRefusal x item = none) :
    s.stage m x item = State.answered { s with session := some { x with list := x.list ++ [item] } } m 0x00
      [byteOf (x.list.length + 1)] := by
  refine (if_neg (Nat.not_le.2 h)).trans ?_
  rw [hpass]
  rfl

end Staging

/-- A stage operation of the owner ends with its item, or with BAD_ARGUMENT (R151). -/
theorem State.stageParsed_of_owns {s : State} {m : Mgt} {x : Session} (ho : s.Owns m x)
    (item : Option ListItem) :
    s.stageParsed m item = item.elim (s.answered m 0x99 []) (s.stage m x) := by
  rw [State.stageParsed, State.whenOwner_owns _ ho]
  cases item <;> rfl

/-- Settles O41: the item, the room in the list and the role, in the order of Table 9-2. -/
theorem stagingIsJudged : Obligations.StagingIsJudged := by
  intro s m x c item h ho hop guarded touches
  have htouches (i : ListItem) : touches i ↔ i.touchesProtected s.table = true :=
    (i.touchesProtected_iff s.table).symm
  have hexec : exec c s = .next (s.stageParsed m item) := by
    obtain ⟨hc, hl, rfl, rfl⟩ | ⟨hc, hl, rfl, rfl⟩ | ⟨hc, hl, rfl, rfl⟩ | ⟨hc, hl, rfl, rfl⟩ := hop
    · exact State.whenOp_of_length h hc hl fun m s => s.stageParsed m (parseConfig m.data)
    · exact State.whenOp_of_length h hc hl fun m s => s.stageParsed m ((parseEntry m.data).map .add)
    · exact State.whenOp_of_length h hc hl fun m s => s.stageParsed m ((parseEntry m.data).map .modify)
    · exact State.whenOp_of_length h hc hl fun m s => s.stageParsed m ((parseKey m.data).map .delete)
  simp only [htouches, hexec, State.stageParsed_of_owns ho]
  refine ⟨?bad, fun hsome hfull => ?full, ?ways, ?prot, ?joins⟩
  case bad =>
    rintro rfl
    rfl
  case full =>
    obtain ⟨i, rfl⟩ := Option.ne_none_iff_exists'.1 hsome
    rw [Option.elim_some, State.stage_of_full m i hfull]
  case ways =>
    rintro v rfl hroom hrole
    rw [Option.elim_some, State.stage_of_refusal m hroom (State.stagingRefusal_ways v hrole)]
    rfl
  case prot =>
    rintro i rfl hroom hrole hprot
    rw [Option.elim_some, State.stage_of_refusal m hroom (State.stagingRefusal_prot hrole hprot)]
    rfl
  case joins =>
    rintro i rfl hroom hmay
    rw [Option.elim_some, State.stage_of_pass m hroom (State.stagingRefusal_none hmay)]

/-! ### DISCARD and LIST_READ (R155) -/

/-- LIST_READ of the owner: an index beyond the list's places, an item, or an empty place (R155). -/
theorem listRead_answers {s : State} {m : Mgt} {x : Session} {index : Byte} (h : s.Executes m)
    (ho : s.Owns m x) (hc : m.code = 0x09) (hd : m.data = [index]) :
    exec .listRead s = .next (if 31 < index.toNat then s.answered m 0x99 []
      else (x.list[index.toNat]?).elim (s.answered m 0x98 []) fun item => s.answered m 0x00 item.bytes) := by
  have hl : m.data.length = 1 := by rw [hd]; rfl
  simp only [exec, execListRead, State.whenOp_owner h ho hc hl, hd]
  cases x.list[index.toNat]? <;> rfl

/-- Settles O42: the list is emptied, or one of its items read. -/
theorem changeListIsReadAndDiscarded : Obligations.ChangeListIsReadAndDiscarded := by
  intro s m x h ho
  refine ⟨fun hc hd => ?discard, fun index hc hd => ?read⟩
  case discard =>
    have hl : m.data.length = 0 := by rw [hd]; rfl
    simp only [exec, execDiscard, State.whenOp_owner h ho hc hl]
    rfl
  case read =>
    rw [listRead_answers h ho hc hd]
    refine ⟨fun hbeyond => ?_, fun hindex hempty => ?_, fun item hindex hitem => ?_⟩
    · rw [if_pos hbeyond]
    · rw [if_neg (Nat.not_lt.2 hindex), List.getElem?_eq_none hempty]
      rfl
    · rw [if_neg (Nat.not_lt.2 hindex), hitem]
      cases item <;> rfl

/-! ### CLEAR_COUNTERS and SET_MODE (R57, R58, R160) -/

/-- Every station keeps its record but for its totals (R160). -/
theorem State.station_clearCounters (s : State) (n : Nat) :
    s.clearCounters.station n = { s.station n with timeouts := 0, unmatched := 0 } :=
  State.station_of_map (f := fun r => { r with timeouts := 0, unmatched := 0 }) rfl rfl n

/-- No mode has another code than 0 and 1 (Table 1-9). -/
theorem Mode.ofCode_eq_none {n : Nat} (h : 1 < n) : Mode.ofCode n = none := by
  unfold Mode.ofCode
  split
  case h_1 => exact absurd h (by decide)
  case h_2 => exact absurd h (by decide)
  case h_3 => rfl

section SetMode
variable {s : State} {m : Mgt} {x : Session} {code : Byte} (h : s.Executes m) (ho : s.Owns m x)
  (hc : m.code = 0x19) (hd : m.data = [code])
include h ho hc hd

theorem setMode_of_no_mode (hmode : Mode.ofCode code.toNat = none) :
    exec .setMode s = .next (s.answered m 0x99 []) := by
  have hl : m.data.length = 1 := by rw [hd]; rfl
  simp only [exec, execSetMode, State.whenOp_owner h ho hc hl, hd, hmode]
  rfl

/-- SET_MODE enters the mode, frees its slot and hands its MGA on (R57, R58). -/
theorem setMode_of_mode {mode : Mode} (hmode : Mode.ofCode code.toNat = some mode) :
    exec .setMode s = .next
      ((s.enterMode mode).freeSlot.handOn m.port (m.reply 0x00 [if s.mode = .screening then 1 else 0])) := by
  have hl : m.data.length = 1 := by rw [hd]; rfl
  have hbefore : byteOf s.mode.code = if s.mode = .screening then 1 else 0 := by cases s.mode <;> rfl
  simp only [exec, execSetMode, State.whenOp_owner h ho hc hl, hd, hmode, hbefore]
  rfl

end SetMode

/-- The entry into ISOLATED is announced when the mode was SCREENING (R58). -/
theorem State.enterMode_isolated (s : State) : s.enterMode .isolated = { s with
    mode := .isolated, isolatedPurges := s.isolatedPurges + if s.mode = .screening then 1 else 0 } := by
  cases hmode : s.mode <;> simp [State.enterMode, hmode]

theorem State.enterMode_screening (s : State) : s.enterMode .screening = { s with mode := .screening } := by
  simp [State.enterMode]

/-- Settles O43: both operations under the frame of the owner's operations. -/
theorem ownerClearsCountersAndSetsTheMode : Obligations.OwnerClearsCountersAndSetsTheMode := by
  intro s m x h ho
  refine ⟨fun hc hd => ⟨s.clearCounters.stations, s.station_clearCounters, ?clear⟩,
    fun code hc hd => ⟨fun hbeyond => ?none, ?screening, ?isolated⟩⟩
  case clear =>
    have hl : m.data.length = 0 := by rw [hd]; rfl
    simp only [exec, execClearCounters, State.whenOp_owner h ho hc hl]
    rfl
  case none => exact setMode_of_no_mode h ho hc hd (Mode.ofCode_eq_none hbeyond)
  case screening =>
    rintro rfl
    rw [setMode_of_mode h ho hc hd (mode := .screening) rfl, State.enterMode_screening]
    rfl
  case isolated =>
    rintro rfl
    rw [setMode_of_mode h ho hc hd (mode := .isolated) rfl, State.enterMode_isolated]
    rfl

end Sys2Proof.Machine

/-! ## APPLY (R75, R99, R111, R139, R153, R154) -/

namespace Sys2Proof.Machine

section Apply
variable {s : State} {m : Mgt} {x : Session} (h : s.Executes m) (ho : s.Owns m x) (hc : m.code = 0x0A)
  (hd : m.data = [])
include h ho hc hd

/-- APPLY while a store operation is in flight (R153). -/
theorem apply_of_op (hop : s.store.op.isSome = true) : exec .apply s = .next (s.answered m 0x95 []) := by
  have hl : m.data.length = 0 := by rw [hd]; rfl
  simp only [exec, execApply, State.whenOp_owner h ho hc hl, if_pos hop]
  rfl

/-- APPLY of an empty list (R153). -/
theorem apply_of_nil (hop : s.store.op = none) (hlist : x.list = []) :
    exec .apply s = .next (s.answered m 0x00 [0]) := by
  have hl : m.data.length = 0 := by rw [hd]; rfl
  simp only [exec, execApply, State.whenOp_owner h ho hc hl, hop, hlist]
  rfl

/-- APPLY of a list of which an item fails (R153). -/
theorem apply_of_error (hop : s.store.op = none) (hlist : x.list ≠ []) {i : Nat} {reason : ApplyReason}
    (htry : Working.tryItems x.role s.lock 0 ⟨s.table, s.settings⟩ x.list = .error (i, reason)) :
    exec .apply s = .next (s.answered m 0x97 [byteOf i, reason.code]) := by
  have hl : m.data.length = 0 := by rw [hd]; rfl
  simp only [exec, execApply, State.whenOp_owner h ho hc hl, hop, htry, List.isEmpty_iff, if_neg hlist]
  rfl

/-- APPLY of a list whose items all pass (R154). -/
theorem apply_of_ok (hop : s.store.op = none) (hlist : x.list ≠ []) {w : Working}
    (htry : Working.tryItems x.role s.lock 0 ⟨s.table, s.settings⟩ x.list = .ok w) :
    exec .apply s = .next ((s.takeEffect x w).answered m 0x00 [byteOf x.list.length]) := by
  have hl : m.data.length = 0 := by rw [hd]; rfl
  simp only [exec, execApply, State.whenOp_owner h ho hc hl, hop, htry, List.isEmpty_iff, if_neg hlist]
  rfl

end Apply

/-- Settles O45: BUSY, the empty list, and the first item that fails. -/
theorem applyFailsWhole : Obligations.ApplyFailsWhole := by
  intro s m x h ho hc hd
  refine ⟨fun hop => apply_of_op h ho hc hd (Option.isSome_iff_ne_none.2 hop), apply_of_nil h ho hc hd,
    fun before item after w reason hop hlist hpass hfail => ?_⟩
  have htry := Working.tryItems_of_error (after := after) 0 hpass hfail
  rw [Nat.zero_add, ← hlist] at htry
  rw [apply_of_error h ho hc hd hop (by simp [hlist]) htry]
  cases reason <;> rfl

/-! ### The meters (Table 4-4) -/

/-- The size rows of Table 4-4. -/
theorem Meter.resized_eq (now size : Nat) (m : Meter) :
    m.resized now size = { m with
      size := size
      tokens := min m.tokens size
      refill := if size ≤ m.tokens then none else some (m.refill.getD (now + 32000 * m.period)) } := by
  unfold Meter.resized
  split
  case isTrue hcut => rw [Nat.min_eq_right hcut]
  case isFalse hkeep => rw [Nat.min_eq_left (Nat.le_of_not_le hkeep), msTicks, Nat.mul_comm]

/-- The period row of Table 4-4. -/
theorem Meter.retimed_eq (now period : Nat) (m : Meter) :
    m.retimed now period = { m with
      period := period
      refill := if m.tokens < m.size then some (now + 32000 * period) else none } := by
  rw [Meter.retimed, msTicks, Nat.mul_comm]

/-- A meter whose size an APPLY sets, with its period or without (R75). -/
theorem Meter.adjusted_of_size (now size : Nat) (period : Option Nat) (m : Meter) :
    m.adjusted now (some size) period = {
      size := size
      period := period.getD m.period
      tokens := min m.tokens size
      refill := if size ≤ m.tokens then none else some (period.elim
        (m.refill.getD (now + 32000 * m.period)) (now + 32000 * ·)) } := by
  cases period with
  | none => exact m.resized_eq now size
  | some v =>
    have hbelow : min m.tokens size < size ↔ ¬size ≤ m.tokens := by omega
    simp only [Meter.adjusted, Meter.resized_eq, Meter.retimed_eq, hbelow, ite_not]
    rfl

/-- A list carries a CONFIG item of `i`. -/
theorem carries_eq (list : List ListItem) (i : ConfigItem) : carries list i = list.any (·.configures i) := by
  refine congrArg list.any (funext fun item => ?_)
  cases item <;> simp [ListItem.configures, eq_comm]

/-- The meter bank after an APPLY, meter by meter (R75). -/
theorem State.adjustMeters_get (s : State) (list : List ListItem) (c : Settings) (n : Fin 32) :
    (s.adjustMeters list c)[n] = (s.meters[n]).adjusted s.now
      (if list.any (·.configures (.meterSize n)) then some c.meterSize[n] else none)
      (if list.any (·.configures (.meterPeriod n)) then some c.meterPeriod[n] else none) := by
  simp [State.adjustMeters, carries_eq]

/-! ### The repeat timers (R139) -/

/-- The notice state of port `p` after an APPLY of `list`: a mask change that finds an enabled flag pending and
the timer stopped starts it (R139). -/
def State.maskChanged (s : State) (list : List ListItem) (p : Port) : NoticeState :=
  if list.any (·.configures (.noticeMask p)) = true ∧ s.announces p = true ∧ (s.notice p).timer = none
  then s.repeating p else s.notice p

theorem State.maskChangeIf_eq (s : State) (list : List ListItem) (p : Port) :
    s.maskChangeIf list p = s.withNotice p (s.maskChanged list p) := by
  have hsame : s.withNotice p (s.notice p) = s := by
    rw [State.withNotice, State.notice, PerPort.set_get]
  unfold State.maskChangeIf State.maskChange State.maskChanged
  rw [carries_eq]
  by_cases hcarries : list.any (·.configures (.noticeMask p)) = true
  · by_cases hstarts : s.announces p = true ∧ (s.notice p).timer = none
    · rw [if_pos hcarries, if_pos (by simpa using hstarts), if_pos ⟨hcarries, hstarts⟩,
        State.startRepeat_eq]
    · rw [if_pos hcarries, if_neg (by simpa using hstarts), if_neg fun hall => hstarts hall.2, hsame]
  · rw [if_neg hcarries, if_neg fun hall => hcarries hall.1, hsame]

/-- The mask changes of both ports: neither reads what the other writes (R134). -/
theorem State.maskChangeIf_both (s : State) (list : List ListItem) :
    (s.maskChangeIf list .a).maskChangeIf list .b
      = { s with notices := ⟨s.maskChanged list .a, s.maskChanged list .b⟩ } := by
  rw [State.maskChangeIf_eq, State.maskChangeIf_eq]
  rfl

/-! ### The whole effect (R154) -/

/-- The state in which an APPLY leaves the relay but for the notice states (R154). -/
def State.applied (s : State) (x : Session) (w : Working) : State :=
  { s with
    table := w.table
    settings := w.settings
    fieldTx := s.keepClasses
    credits := s.reloadCredits x.list w.settings
    meters := s.adjustMeters x.list w.settings
    session := some { x with list := [] } }

theorem State.takeEffect_eq (s : State) (x : Session) (w : Working) :
    s.takeEffect x w = { s.applied x w with
      notices := ⟨(s.applied x w).maskChanged x.list .a, (s.applied x w).maskChanged x.list .b⟩ } :=
  (s.applied x w).maskChangeIf_both x.list

/-- A transmission that has ended by the clock keeps the TIMEOUT_CLASS values of its end (R111, log 3). -/
theorem State.keepClasses_eq (s : State) :
    s.keepClasses = s.fieldTx.map fun y =>
      if y.classes = none ∧ y.startedAt + (11 + y.telegram.data.length) * 10
          * (32000000 / s.runningRate.get .field) < s.now
      then { y with classes := some s.settings.timeoutClass } else y := by
  simp only [State.keepClasses, Bool.and_eq_true, Option.isNone_iff_eq_none, decide_eq_true_eq]
  rfl

/-- A list that carries a share reloads the credits (R99). -/
theorem State.reloadCredits_eq (s : State) (list : List ListItem) (c : Settings) :
    s.reloadCredits list c
      = if list.any (·.configures (.share .a)) = true ∨ list.any (·.configures (.share .b)) = true
        then c.share else s.credits := by
  simp only [State.reloadCredits, carries_eq, Bool.or_eq_true]

/-- Settles O46: the fields that an APPLY writes, one by one. -/
theorem applyTakesEffectWhole : Obligations.ApplyTakesEffectWhole := by
  intro s m x w h ho hc hd hop hlist hpass has done
  refine ⟨s.reloadCredits x.list w.settings, s.adjustMeters x.list w.settings,
    ⟨(s.applied x w).maskChanged x.list .a, (s.applied x w).maskChanged x.list .b⟩, ?exec, fun hshare => ?share,
    fun ha hb => ?noShare, fun n hsize hperiod => ?untouched, fun n hsize => ?size,
    fun n hsize hperiod => ?period, fun p => ?notice⟩
  case exec =>
    rw [apply_of_ok h ho hc hd hop hlist (Working.tryItems_of_ok 0 hpass), State.takeEffect_eq,
      State.applied, State.keepClasses_eq]
  case share => rw [State.reloadCredits_eq, if_pos hshare]
  case noShare => rw [State.reloadCredits_eq, if_neg (not_or.2 ⟨ha, hb⟩)]
  case untouched => rw [State.adjustMeters_get, if_neg hsize, if_neg hperiod]; rfl
  case size =>
    rw [State.adjustMeters_get, if_pos hsize, Meter.adjusted_of_size]
    refine ⟨rfl, ?_, rfl, fun hcut => if_pos hcut, fun hbelow => (if_neg (Nat.not_le.2 hbelow)).trans ?_⟩
    all_goals
      by_cases hperiod : has (.meterPeriod n) = true
      · rw [if_pos hperiod, if_pos hperiod]; rfl
      · rw [if_neg hperiod, if_neg hperiod]; rfl
  case period =>
    rw [State.adjustMeters_get, if_neg hsize, if_pos hperiod]
    exact Meter.retimed_eq _ _ _
  case notice =>
    have hannounces := (s.applied x w).announces_iff p
    cases p <;> exact if_congr (and_congr_right fun _ => and_congr_left fun _ => hannounces) rfl rfl

end Sys2Proof.Machine

/-! ## What every step keeps of the session (R150, R151, R152)

Of the governed part of the state a command leaves what `Changes` says. Only what a session command makes of the
session has to be looked at again. -/

namespace Sys2Proof.Machine

/-- The session stands beside the lock, and its list fits its role (R150 to R152). -/
structure Session.Fits (x : Session) (lock : Bool) : Prop where
  beside : x.role = .integrator → lock = false
  few : x.list.length ≤ 32
  allowed : x.role = .operator → ∀ v, ListItem.config .protectedWays v ∉ x.list

/-- The invariant of the session as a property of the governed part. -/
def Governed.SessionOk (g : Governed) : Prop := ∀ x ∈ g.session, x.Fits g.lock

theorem State.sessionOk_iff (s : State) : s.SessionOk ↔ s.governed.SessionOk :=
  ⟨fun h x hx => have ⟨hbeside, hfew, hallowed⟩ := h x hx; ⟨hbeside, hfew, hallowed⟩,
    fun h x hx => have ⟨hbeside, hfew, hallowed⟩ := h x hx; ⟨hbeside, hfew, hallowed⟩⟩

/-- A session with an empty list fits when its role may stand beside the lock. -/
theorem Session.Fits.of_empty {x : Session} {lock : Bool} (hlist : x.list = [])
    (h : x.role = .integrator → lock = false) : x.Fits lock :=
  ⟨h, by simp [hlist], by simp [hlist]⟩

/-- A session that SET_LOCK leaves fits a set lock (R150). -/
theorem Session.Fits.downgraded {x : Session} {lock : Bool} (h : x.Fits lock) : x.downgraded.Fits true := by
  unfold Session.downgraded
  split
  case h_1 => exact .of_empty rfl nofun
  case h_2 hrole => exact { h with beside := fun hno => by cases hrole.symm.trans hno }

section Session
variable {s t : State}

theorem Governed.SessionOk.of_none {g : Governed} (h : g.session = none) : g.SessionOk := by
  rw [Governed.SessionOk, h]
  nofun

theorem Governed.SessionOk.of_some {g : Governed} {x : Session} (h : g.session = some x)
    (hx : x.Fits g.lock) : g.SessionOk := by
  rw [Governed.SessionOk, h]
  rintro _ ⟨⟩
  exact hx

/-- What a success does at the lock and the session (R169, R150). -/
theorem Governed.SessionOk.storeEffect (h : s.governed.SessionOk) (kind : StoreKind) :
    (s.storeEffect kind).governed.SessionOk := by
  cases kind with
  | commit => exact h
  | setLock =>
    intro x hx
    obtain ⟨y, hy, rfl⟩ := Option.map_eq_some_iff.1 hx
    exact (h y hy).downgraded
  | eraseProtected => exact fun x hx => { h x hx with beside := fun _ => rfl }

/-- What a command that is no session command can leave keeps the session. -/
theorem Changes.keepsSession {c : Instr} (h : Changes s t c) (hc : ¬Instr.IsSessionCommand c)
    (hs : s.governed.SessionOk) : t.governed.SessionOk := by
  cases h with
  | nothing h => rwa [h]
  | lost store _ _ h => rw [h]; exact .of_none rfl
  | loaded store _ h => rw [h]; exact .of_none rfl
  | reloaded h => rw [h]; exact .of_none rfl
  | hit station block h => rw [h]; exact hs
  | applied x w hx _ h => rw [h]; exact .of_some rfl (.of_empty rfl (hs x hx).beside)
  | leases leases _ h => rw [h]; exact hs
  | session x hsession _ h => exact absurd hsession hc
  | dispatched tag h => rw [h]; exact hs
  | mode mode h => rw [h]; exact hs
  | restarted mode leases h => rw [h]; exact hs
  | storeStarted kind op i _ _ h => rw [h]; exact hs
  | storeFailed i failures faulted _ h => rw [h]; exact hs
  | storeSucceeded op _ h =>
    rw [h]
    refine Governed.SessionOk.storeEffect ?_ op.kind
    exact hs

/-! ### The session commands -/

/-- The invariant reads the governed part alone. -/
theorem State.SessionOk.congr (hs : s.SessionOk) (h : t.governed = s.governed) : t.SessionOk := by
  rw [State.sessionOk_iff] at hs ⊢
  rwa [h]

/-- No session is open. -/
theorem State.SessionOk.of_none (h : t.session = none) : t.SessionOk :=
  t.sessionOk_iff.2 (.of_none h)

/-- The open session fits. -/
theorem State.SessionOk.of_some {x : Session} (h : t.session = some x) (hx : x.Fits t.lock) : t.SessionOk :=
  t.sessionOk_iff.2 (.of_some h hx)

theorem State.SessionOk.fits {x : Session} (hs : s.SessionOk) (hx : s.session = some x) : x.Fits s.lock :=
  s.sessionOk_iff.1 hs x hx

theorem State.SessionOk.of_whenRunning {f : State → State} (hs : s.SessionOk) (h : s.whenRunning f = .next t)
    (hf : (f s).SessionOk) : t.SessionOk := by
  rcases State.whenRunning_cases h with rfl | rfl
  · exact hf
  · exact hs

theorem State.SessionOk.of_whenOp {code : Byte} {len : Nat} {f : Mgt → State → State} (hs : s.SessionOk)
    (h : s.whenOp code len f = .next t) (hf : ∀ m, (f m s).SessionOk) : t.SessionOk := by
  rcases State.whenOp_cases h with ⟨m, _, _, _, _, _, ⟨_, rfl⟩ | rfl⟩ | rfl
  · exact hf m
  · exact hs.congr rfl
  · exact hs

theorem State.SessionOk.of_whenOwner (hs : s.SessionOk) (m : Mgt) {f : Session → State}
    (hf : ∀ x, s.session = some x → (f x).SessionOk) : (s.whenOwner m f).SessionOk := by
  rcases s.whenOwner_cases m f with ⟨_, h⟩ | ⟨_, _, _, h⟩ | ⟨x, hx, _, h⟩
  · exact h ▸ hs.congr rfl
  · exact h ▸ hs.congr rfl
  · exact h ▸ hf x hx

theorem sessionIdleExpiry_sessionOk (hs : s.SessionOk) (h : execSessionIdleExpiry s = .next t) :
    t.SessionOk := by
  refine hs.of_whenRunning h ?_
  split
  · exact hs
  · refine .of_none ?_
    rw [State.request_session]
    rfl

theorem sessionEndOnLinkDown_sessionOk {p : Port} (hs : s.SessionOk)
    (h : execSessionEndOnLinkDown p s = .next t) : t.SessionOk := by
  refine hs.of_whenRunning h ?_
  split
  · exact hs
  · dsimp only
    split
    · split
      · refine .of_none ?_
        rw [State.request_session]
        rfl
      · exact hs.congr rfl
    · exact hs.congr rfl

/-- A telegram that is delivered starts the idle timer again at most (R142). -/
theorem State.SessionOk.deliver (hs : s.SessionOk) (p : Port) (telegram : Telegram) :
    (s.deliver p telegram).SessionOk := by
  unfold State.deliver
  split
  case h_1 => split <;> exact hs.congr rfl
  case h_2 =>
    split
    · rw [State.sessionOk_iff, State.governed_offerMgt, State.touchSession_eq]
      intro x hx
      obtain ⟨y, hy, rfl⟩ := Option.map_eq_some_iff.1 hx
      have hfits : y.Fits s.lock := hs.fits hy
      split
      · exact { hfits with }
      · exact hfits
    · exact hs.congr rfl
  all_goals exact hs.congr rfl

theorem controlTelegram_sessionOk {p : Port} {last : Byte} (hs : s.SessionOk)
    (h : execControlTelegram p last s = .next t) : t.SessionOk := by
  refine hs.of_whenRunning h ?_
  split
  · refine State.SessionOk.deliver (hs.congr ?_) p _
    rw [State.governed_supervise]
    rfl
  all_goals exact hs

/-- The lock stops an INTEGRATOR, and a session that opens or changes its role has an empty list (R146). -/
theorem sessionOpen_sessionOk (hs : s.SessionOk) (h : execSessionOpen s = .next t) : t.SessionOk := by
  refine hs.of_whenOp h fun m => ?_
  have hbeside {role : Role} (hmay : ¬(role = .integrator && s.lock) = true) :
      role = .integrator → s.lock = false := by simpa using hmay
  split
  · split
    · exact hs.congr rfl
    · split
      · split
        · exact hs.congr rfl
        · split
          · exact hs.congr rfl
          case isFalse hmay => exact .of_some rfl (.of_empty rfl (hbeside hmay))
      · split
        · exact hs.congr rfl
        case isFalse hmay => exact .of_some rfl (.of_empty rfl (hbeside hmay))
  · exact hs.congr rfl

theorem sessionClose_sessionOk (hs : s.SessionOk) (h : execSessionClose s = .next t) : t.SessionOk :=
  hs.of_whenOp h fun m => hs.of_whenOwner m fun _ _ => .of_none rfl

theorem discard_sessionOk (hs : s.SessionOk) (h : execDiscard s = .next t) : t.SessionOk :=
  hs.of_whenOp h fun m => hs.of_whenOwner m fun _ hx => .of_some rfl (.of_empty rfl (hs.fits hx).beside)

/-- An item joins a list only while there is room and the role may stage it (R151, R152). -/
theorem State.SessionOk.stageParsed (hs : s.SessionOk) (m : Mgt) (item : Option ListItem) :
    (s.stageParsed m item).SessionOk := by
  refine hs.of_whenOwner m fun x hx => ?_
  split
  · exact hs.congr rfl
  case h_2 staged =>
    have hfits := hs.fits hx
    unfold State.stage
    split
    · exact hs.congr rfl
    case isFalse hroom =>
      split
      · exact hs.congr rfl
      case h_2 hpass =>
        refine .of_some rfl ⟨hfits.beside, ?_, fun hrole v hmem => ?_⟩
        · rw [List.length_append]
          exact Nat.lt_of_not_le hroom
        · rcases List.mem_append.1 hmem with hold | hnew
          · exact hfits.allowed hrole v hold
          · obtain rfl := List.mem_singleton.1 hnew
            cases (State.stagingRefusal_ways (s := s) (x := x) v hrole).symm.trans hpass

theorem stageConfig_sessionOk (hs : s.SessionOk) (h : execStageConfig s = .next t) : t.SessionOk :=
  hs.of_whenOp h fun m => hs.stageParsed m _

theorem stageAdd_sessionOk (hs : s.SessionOk) (h : execStageAdd s = .next t) : t.SessionOk :=
  hs.of_whenOp h fun m => hs.stageParsed m _

theorem stageModify_sessionOk (hs : s.SessionOk) (h : execStageModify s = .next t) : t.SessionOk :=
  hs.of_whenOp h fun m => hs.stageParsed m _

theorem stageDelete_sessionOk (hs : s.SessionOk) (h : execStageDelete s = .next t) : t.SessionOk :=
  hs.of_whenOp h fun m => hs.stageParsed m _

/-- Every command keeps the session. -/
theorem exec_sessionOk {c : Instr} (hs : s.SessionOk) (h : exec c s = .next t) : t.SessionOk := by
  by_cases hc : Instr.IsSessionCommand c
  · obtain rfl | ⟨p, rfl⟩ | ⟨p, last, rfl⟩ | hmem := hc
    · exact sessionIdleExpiry_sessionOk hs h
    · exact sessionEndOnLinkDown_sessionOk hs h
    · exact controlTelegram_sessionOk hs h
    · simp only [List.mem_cons, List.not_mem_nil, or_false] at hmem
      obtain rfl | rfl | rfl | rfl | rfl | rfl | rfl := hmem
      · exact sessionOpen_sessionOk hs h
      · exact sessionClose_sessionOk hs h
      · exact stageConfig_sessionOk hs h
      · exact stageAdd_sessionOk hs h
      · exact stageModify_sessionOk hs h
      · exact stageDelete_sessionOk hs h
      · exact discard_sessionOk hs h
  · exact t.sessionOk_iff.2 ((exec_changes h).keepsSession hc (s.sessionOk_iff.1 hs))

end Session

end Sys2Proof.Machine

/-! ## What every step keeps of the meters and the repeat timers (R72, R73, R136, R139, R141)

Both invariants read the meters, the notice states, the notice masks and the parts of a RESTART at the notice
unit: the timing of a state. `State.KeepsTimers` says of two states that the later one keeps each of the two
invariants by itself; it is transitive, so a happening keeps them when its parts do. Most parts leave the timing
as it was. The others are the operations of a meter (Table 4-4, R69, R73), the operations of the notice unit
(R135 to R139) and the starts. -/

namespace Sys2Proof.Machine

/-! ### Meters (R72, R73, R75) -/

/-- The tokens are at most the size, and the refill timer runs while they are below it (R72, R73). -/
structure Meter.Ok (m : Meter) : Prop where
  few : m.tokens ≤ m.size
  refills : m.refill.isSome ↔ m.tokens < m.size

theorem State.metersOk_iff (s : State) : s.MetersOk ↔ ∀ n : Fin 32, (s.meters[n]).Ok :=
  forall_congr' fun _ => ⟨fun ⟨hfew, hrefills⟩ => ⟨hfew, hrefills⟩, fun ⟨hfew, hrefills⟩ => ⟨hfew, hrefills⟩⟩

theorem Meter.Ok.full (size period : Nat) : Meter.Ok ⟨size, period, size, none⟩ :=
  ⟨Nat.le_refl _, by simp⟩

theorem Meter.Ok.take {m : Meter} (h : m.Ok) (now : Nat) : (m.take now).Ok := by
  obtain ⟨hfew, hrefills⟩ := h
  rw [Meter.take_eq]
  refine ⟨(Nat.sub_le _ _).trans hfew, ?_⟩
  dsimp only
  cases hrefill : m.refill with
  | none =>
    by_cases hbelow : m.tokens - 1 < m.size
    · simp [hbelow]
    · simp [hbelow]
  | some due =>
    have hbelow : m.tokens < m.size := hrefills.1 (by rw [hrefill]; rfl)
    simp [(Nat.sub_le _ 1).trans_lt hbelow]

theorem Meter.Ok.refilled {m : Meter} (h : m.Ok) (hdue : m.refill.isSome = true) (now : Nat) :
    (m.refilled now).Ok := by
  rw [Meter.refilled_eq]
  refine ⟨h.refills.1 hdue, ?_⟩
  dsimp only
  split
  case isTrue hbelow => simp [hbelow]
  case isFalse hfull => simp [hfull]

theorem Meter.Ok.retimed {m : Meter} (h : m.Ok) (now period : Nat) : (m.retimed now period).Ok := by
  rw [Meter.retimed_eq]
  refine ⟨h.few, ?_⟩
  dsimp only
  split
  case isTrue hbelow => simp [hbelow]
  case isFalse hfull => simp [hfull]

/-- Whatever the meter held, it fits the size it is given (Table 4-4). -/
theorem Meter.resized_ok (m : Meter) (now size : Nat) : (m.resized now size).Ok := by
  rw [Meter.resized_eq]
  refine ⟨Nat.min_le_right _ _, ?_⟩
  dsimp only
  split
  case isTrue hcut => simp [hcut]
  case isFalse hbelow => simpa using hbelow

theorem Meter.Ok.adjusted {m : Meter} (h : m.Ok) (now : Nat) (size period : Option Nat) :
    (m.adjusted now size period).Ok := by
  cases size with
  | none =>
    cases period with
    | none => exact h
    | some v => exact h.retimed now v
  | some size =>
    have hsized := m.resized_ok now size
    cases period with
    | none => exact hsized
    | some v => exact hsized.retimed now v

theorem metersFor_get (c : Settings) (n : Fin 32) :
    (metersFor c)[n] = ⟨c.meterSize[n], c.meterPeriod[n], c.meterSize[n], none⟩ := by
  simp [metersFor]

/-! ### The timing of a state -/

/-- While an enabled flag is pending on port `p`, its repeat timer runs (R136). -/
def State.Reminds (s : State) (p : Port) : Prop := s.announces p = true → (s.notice p).timer.isSome = true

/-- What the two invariants read of a state. -/
structure Timing where
  meters : Vector Meter 32
  notices : PerPort NoticeState
  masks : PerPort (BitVec 10)
  restart : Option RestartRun

/-- The timing of a state. -/
def State.timing (s : State) : Timing where
  meters := s.meters
  notices := s.notices
  masks := s.settings.noticeMask
  restart := s.restart

/-- The state `t` keeps the meters of `s`, and its repeat timers (R72, R136). -/
structure State.KeepsTimers (s t : State) : Prop where
  meters : s.MetersOk → t.MetersOk
  notices : s.NoticesOk → t.NoticesOk

section Timing
variable {s t u : State}

theorem State.Reminds.congr {p : Port} (h : s.Reminds p) (hnotice : t.notice p = s.notice p)
    (hmask : t.mask p = s.mask p) : t.Reminds p := by
  rw [State.Reminds, State.announces, hnotice, hmask]
  exact h

theorem State.NoticesOk.congr (hs : s.NoticesOk) (hnotices : t.notices = s.notices)
    (hmasks : t.settings.noticeMask = s.settings.noticeMask) (hrestart : t.restart = s.restart) :
    t.NoticesOk := fun p hdone =>
  State.Reminds.congr (hs p (hrestart ▸ hdone)) (congrArg (·.get p) hnotices) (congrArg (·.get p) hmasks)

@[refl] theorem State.KeepsTimers.refl (s : State) : s.KeepsTimers s := ⟨id, id⟩

theorem State.KeepsTimers.trans (h : s.KeepsTimers t) (h' : t.KeepsTimers u) : s.KeepsTimers u :=
  ⟨h'.meters ∘ h.meters, h'.notices ∘ h.notices⟩

/-- The invariants read the timing alone. -/
theorem State.KeepsTimers.of_timing (h : t.timing = s.timing) : s.KeepsTimers t := by
  obtain ⟨hmeters, hnotices, hmasks, hrestart⟩ := Timing.mk.inj h
  exact ⟨fun hs => by rwa [State.MetersOk, hmeters], fun hs => hs.congr hnotices hmasks hrestart⟩

/-- A happening at the notice unit keeps the repeat timers port by port. -/
theorem State.KeepsTimers.of_reminds (hmeters : t.meters = s.meters) (hrestart : t.restart = s.restart)
    (h : ∀ p, s.Reminds p → t.Reminds p) : s.KeepsTimers t :=
  ⟨fun hs => by rwa [State.MetersOk, hmeters], fun hs p hdone => h p (hs p (hrestart ▸ hdone))⟩

/-- A happening at the meter bank keeps the meters one by one. -/
theorem State.KeepsTimers.of_meters (hmeters : ∀ n : Fin 32, (s.meters[n]).Ok → (t.meters[n]).Ok)
    (h : t.timing = { s.timing with meters := t.meters }) : s.KeepsTimers t := by
  obtain ⟨_, hnotices, hmasks, hrestart⟩ := Timing.mk.inj h
  exact ⟨fun hs => t.metersOk_iff.2 fun n => hmeters n (s.metersOk_iff.1 hs n),
    fun hs => hs.congr hnotices hmasks hrestart⟩

/-- A start brings both about, whatever was before. -/
theorem State.KeepsTimers.of_ok (hmeters : t.MetersOk) (hnotices : t.NoticesOk) : s.KeepsTimers t :=
  ⟨fun _ => hmeters, fun _ => hnotices⟩

/-! ### The operations that leave the timing as it was -/

@[simp] theorem State.timing_withStation (s : State) (n : Nat) (r : Station) :
    (s.withStation n r).timing = s.timing := by cases n <;> rfl

@[simp] theorem State.timing_withLease (s : State) (g : Nat) (l : Option Lease) :
    (s.withLease g l).timing = s.timing := by cases g <;> rfl

@[simp] theorem State.timing_finish (s : State) (m : Mgt) (st : MgtStatus) (data : List Byte) :
    (s.finish m st data).timing = s.timing := rfl

@[simp] theorem State.timing_grant (s : State) (p : Port) (g granted : Nat) :
    (s.grant p g granted).timing = s.timing := s.timing_withLease g _

@[simp] theorem State.timing_countFraming (s : State) (l : Line) : (s.countFraming l).timing = s.timing := by
  cases l <;> rfl

@[simp] theorem State.timing_runClaim (s : State) (p : Port) (run : List Telegram) :
    (s.inSomeOrder (runClaim p run)).timing = s.timing := by
  rw [State.inSomeOrder_runClaim]
  rfl

@[simp] theorem State.timing_purge (s : State) (sel : HeldReq → Bool) (st : RelayStatus) :
    (s.purge sel st).timing = s.timing := by
  rw [State.purge_eq]
  rfl

@[simp] theorem State.timing_unmatchedRsp (s : State) (rsp : Telegram) :
    (s.unmatchedRsp rsp).timing = s.timing := by
  unfold State.unmatchedRsp
  dsimp only
  split
  · exact State.timing_withStation _ _ _
  · rfl

@[simp] theorem State.timing_deliver (s : State) (p : Port) (telegram : Telegram) :
    (s.deliver p telegram).timing = s.timing := by
  have hoffer (u : State) (m : Mgt) : (u.offerMgt m).timing = u.timing := by
    rw [State.offerMgt, State.touchSession_eq]
    split <;> rfl
  unfold State.deliver
  split
  case h_1 => split <;> rfl
  case h_2 =>
    split
    · exact hoffer _ _
    · rfl
  all_goals rfl

@[simp] theorem State.timing_storeEffect (s : State) (kind : StoreKind) :
    (s.storeEffect kind).timing = s.timing := by cases kind <;> rfl

/-! ### The notice unit (R135 to R139) -/

theorem Port.eq_or_eq_other (q p : Port) : q = p ∨ q = p.other := by cases p <;> cases q <;> simp [Port.other]

/-- An offer that is made starts the timer of its port (R137). -/
theorem State.offerNtc_reminds_of_announces {p : Port} (h : s.announces p = true) : (s.offerNtc p).Reminds p :=
  fun _ => by rw [State.offerNtc_timer h]; rfl

theorem State.Reminds.offerNtc {q : Port} (h : s.Reminds q) (p : Port) : (s.offerNtc p).Reminds q := by
  by_cases hannounces : s.announces p = true
  · obtain rfl | rfl := Port.eq_or_eq_other q p
    · exact State.offerNtc_reminds_of_announces hannounces
    · obtain ⟨_, _, _, _, _, _, hother, _⟩ := s.offerNtc_keeps p
      exact h.congr hother (by rw [State.mask, State.offerNtc_settings]; rfl)
  · rwa [State.offerNtc, if_neg hannounces]

/-- A masked flag that is raised announces nothing new. -/
theorem NoticeState.raise_masked {n : NoticeState} {f : NoticeFlag} {mask : BitVec 10}
    (hmasked : mask.getLsbD f.bit = false) : (n.raise f).flags &&& mask = n.flags &&& mask := by
  apply BitVec.eq_of_getLsbD_eq
  intro i hi
  by_cases hbit : f.bit = i
  · subst hbit
    simp [hmasked]
  · simp [NoticeState.raise, BitVec.getLsbD_twoPow, hbit]

/-- A detail leaves the timer as it is (R135). -/
theorem NoticeState.note_timer (n : NoticeState) (d : Detail) : (n.note d).timer = n.timer := by
  cases d <;> rfl

theorem State.Reminds.request {q : Port} (h : s.Reminds q) (f : NoticeFlag) (d : Detail) (p : Port) :
    (s.request f d p).Reminds q := by
  obtain rfl | rfl := Port.eq_or_eq_other q p
  · have hflags := ((s.notice q).note_keeps d).1
    have htimer := (s.notice q).note_timer d
    cases hpending : (s.notice q).flags.getLsbD f.bit with
    | true =>
      rw [State.request_of_pending d hpending, State.Reminds, State.announces,
        State.notice_withNotice_same, hflags, htimer]
      exact h
    | false =>
      rw [State.request_of_clear d hpending]
      split
      case isTrue henabled =>
        refine State.offerNtc_reminds_of_announces ((State.announces_iff _ _).2 ?_)
        rw [State.notice_withNotice_same]
        exact NoticeState.raise_announced henabled
      case isFalse hmasked =>
        have hshown := NoticeState.raise_masked (n := (s.notice q).note d) (Bool.eq_false_iff.2 hmasked)
        rw [State.Reminds, State.announces_iff, State.notice_withNotice_same, State.withNotice_settings,
          hshown, hflags, ← State.announces_iff]
        exact fun hannounces => htimer ▸ h hannounces
  · obtain ⟨_, _, _, _, _, _, hother, _⟩ := s.request_keeps f d p
    exact h.congr hother (by rw [State.mask, State.request_settings]; rfl)

/-- A mask change leaves no enabled pending flag without its timer (R139). -/
theorem State.maskChange_reminds (s : State) (p : Port) : (s.maskChange p).Reminds p := by
  unfold State.maskChange
  split
  case isTrue => exact fun _ => by rw [State.startRepeat_eq, State.notice_withNotice_same]; rfl
  case isFalse hno =>
    intro hannounces
    rw [hannounces, Bool.true_and, Bool.not_eq_true, Option.isNone_eq_false_iff] at hno
    exact hno

theorem State.Reminds.maskChange {q : Port} (h : s.Reminds q) (p : Port) : (s.maskChange p).Reminds q := by
  obtain rfl | rfl := Port.eq_or_eq_other q p
  · exact s.maskChange_reminds q
  · unfold State.maskChange
    split
    · exact h.congr (by rw [State.startRepeat_eq, State.notice_withNotice_other]) rfl
    · exact h

theorem State.Reminds.maskChangeIf {q : Port} (h : s.Reminds q) (list : List ListItem) (p : Port) :
    (s.maskChangeIf list p).Reminds q := by
  unfold State.maskChangeIf
  split
  · exact h.maskChange p
  · exact h

/-- After the mask changes of an APPLY a port's timer runs when its mask was carried, or when it needed no
start (R139). -/
theorem State.maskChanges_remind (s : State) (list : List ListItem) (p : Port)
    (h : carries list (.noticeMask p) = true ∨ s.Reminds p) :
    ((s.maskChangeIf list .a).maskChangeIf list .b).Reminds p := by
  have hown (u : State) (hu : carries list (.noticeMask p) = true ∨ u.Reminds p) :
      (u.maskChangeIf list p).Reminds p := by
    rcases hu with hcarries | hu
    · rw [State.maskChangeIf, if_pos hcarries]
      exact u.maskChange_reminds p
    · exact hu.maskChangeIf list p
  cases p with
  | a => exact (hown s h).maskChangeIf list .b
  | b => exact hown _ (h.imp_right (·.maskChangeIf list .a))

/-- The notice state of one port is replaced by one that still needs no start of its timer. -/
theorem State.KeepsTimers.withNotice {p : Port} {n : NoticeState}
    (h : s.Reminds p → n.flags &&& s.settings.noticeMask.get p ≠ 0 → n.timer.isSome = true) :
    s.KeepsTimers (s.withNotice p n) := by
  refine .of_reminds rfl rfl fun q hq => ?_
  obtain rfl | rfl := Port.eq_or_eq_other q p
  · rw [State.Reminds, State.announces_iff, State.notice_withNotice_same]
    exact h hq
  · exact hq.congr (s.notice_withNotice_other p n) rfl

theorem State.KeepsTimers.offerNtc (s : State) (p : Port) : s.KeepsTimers (s.offerNtc p) :=
  .of_reminds (s.offerNtc_meters p) (s.offerNtc_restart p) fun _ h => h.offerNtc p

theorem State.KeepsTimers.request (s : State) (f : NoticeFlag) (d : Detail) (p : Port) :
    s.KeepsTimers (s.request f d p) :=
  .of_reminds (s.request_meters f d p) (s.request_restart f d p) fun _ h => h.request f d p

theorem State.KeepsTimers.requestBoth (s : State) (f : NoticeFlag) (d : Detail) :
    s.KeepsTimers (s.requestBoth f d) := (State.KeepsTimers.request s f d .a).trans (.request _ f d .b)

/-! ### The claims of one happening (R128) -/

theorem State.KeepsTimers.inSomeOrder {claims : List (State → State)}
    (h : ∀ claim ∈ claims, ∀ u : State, u.KeepsTimers (claim u)) : s.KeepsTimers (s.inSomeOrder claims) :=
  State.inSomeOrder_keeps (P := fun u => s.KeepsTimers u) (fun _ => .of_timing rfl)
    fun claim hclaim u hu => hu.trans (h claim hclaim u)

theorem keepsTimers_of_mem_runClaim {p : Port} {run : List Telegram} {claim : State → State}
    (h : claim ∈ runClaim p run) (u : State) : u.KeepsTimers (claim u) := by
  rw [eq_answer_of_mem_runClaim h]
  exact .of_timing rfl

/-- A run of answers beside one other claim. -/
theorem State.KeepsTimers.runClaim_and {claim : State → State} (h : ∀ u : State, u.KeepsTimers (claim u))
    (p : Port) (run : List Telegram) : s.KeepsTimers (s.inSomeOrder (runClaim p run ++ [claim])) := by
  refine .inSomeOrder fun c hc => ?_
  rcases List.mem_append.1 hc with hrun | hone
  · exact keepsTimers_of_mem_runClaim hrun
  · obtain rfl := List.mem_singleton.1 hone
    exact h

/-- The claims of a deadline are answers and a notice (R116, R117, R104). -/
theorem State.KeepsTimers.deadlineClaims (s : State) (e : Entry) (held : List HeldReq) (quarantined : Bool)
    (p : Port) : s.KeepsTimers (s.inSomeOrder (deadlineClaims e held quarantined p)) := by
  refine .inSomeOrder fun claim hclaim u => ?_
  unfold Machine.deadlineClaims at hclaim
  rcases List.mem_append.1 hclaim with htimeout | hrest
  · exact keepsTimers_of_mem_runClaim htimeout u
  · split at hrest
    · rcases List.mem_append.1 hrest with hpurge | hnotice
      · exact keepsTimers_of_mem_runClaim hpurge u
      · obtain rfl := List.mem_singleton.1 hnotice
        exact .request u _ _ p
    · cases hrest

/-! ### Commands under their frames -/

theorem State.KeepsTimers.of_whenRunning {f : State → State} (h : s.whenRunning f = .next t)
    (hf : s.KeepsTimers (f s)) : s.KeepsTimers t := by
  rcases State.whenRunning_cases h with rfl | rfl
  · exact hf
  · rfl

theorem State.KeepsTimers.of_whenMgt {takes : Byte → Bool} {f : Mgt → State → State}
    (h : s.whenMgt takes f = .next t) (hf : ∀ m, s.KeepsTimers (f m s)) : s.KeepsTimers t := by
  rcases State.whenMgt_cases h with ⟨m, _, _, _, _, _, rfl⟩ | rfl
  · exact hf m
  · rfl

theorem State.KeepsTimers.of_whenOp {code : Byte} {len : Nat} {f : Mgt → State → State}
    (h : s.whenOp code len f = .next t) (hf : ∀ m, s.KeepsTimers (f m s)) : s.KeepsTimers t := by
  refine .of_whenMgt h fun m => ?_
  split
  · exact hf m
  · exact .of_timing rfl

theorem State.KeepsTimers.of_whenOwner (m : Mgt) {f : Session → State} (hf : ∀ x, s.KeepsTimers (f x)) :
    s.KeepsTimers (s.whenOwner m f) := by
  rcases s.whenOwner_cases m f with ⟨_, h⟩ | ⟨_, _, _, h⟩ | ⟨x, _, _, h⟩
  · exact h ▸ .of_timing rfl
  · exact h ▸ .of_timing rfl
  · exact h ▸ hf x

theorem State.KeepsTimers.of_whenRestarting {due : RestartRun → Bool} {f : RestartRun → State → State}
    (h : s.whenRestarting due f = .next t)
    (hf : ∀ r, s.restart = some r → due r = true → s.KeepsTimers (f r s)) : s.KeepsTimers t := by
  rcases State.whenRestarting_cases h with ⟨r, _, hr, hdue, rfl⟩ | rfl
  · exact hf r hr hdue
  · rfl

end Timing

end Sys2Proof.Machine

/-! ## What each command keeps of the meters and the repeat timers -/

namespace Sys2Proof.Machine

section Commands
variable {s t : State}

/-! ### Supply, RESET_N and the load -/

/-- With no flag pending no repeat timer has to run (R141). -/
theorem State.noticesOk_of_quiet (h : s.notices = .both .quiet) : s.NoticesOk := by
  intro p _ hannounces
  rw [State.announces_iff, State.notice, h, PerPort.get_both] at hannounces
  exact absurd (BitVec.zero_and ..) hannounces

/-- A full bank fits (R76). -/
theorem State.metersOk_of_full (h : s.meters = metersFor s.settings) : s.MetersOk :=
  s.metersOk_iff.2 fun n => by rw [h, metersFor_get]; exact .full _ _

theorem State.lost_keepsTimers (s : State) : s.KeepsTimers s.lost := by
  refine .of_ok ((State.metersOk_iff _).2 fun n => ?_) (State.noticesOk_of_quiet rfl)
  have hfull : s.lost.meters[n] = ⟨16, 100, 16, none⟩ := Vector.getElem_replicate n.isLt
  rw [hfull]
  exact .full _ _

theorem powerOn_keepsTimers (h : execPowerOn s = .next t) : s.KeepsTimers t := by
  simp only [execPowerOn, Host.Outcome.next.injEq] at h
  subst h
  refine .of_timing ?_
  split
  · rfl
  · split <;> rfl

theorem powerFail_keepsTimers (h : execPowerFail s = .next t) : s.KeepsTimers t := by
  simp only [execPowerFail, Host.Outcome.next.injEq] at h
  subst h
  split
  · exact s.lost_keepsTimers.trans (.of_timing rfl)
  · rfl

theorem resetNFall_keepsTimers (h : execResetNFall s = .next t) : s.KeepsTimers t := by
  simp only [execResetNFall, Host.Outcome.next.injEq] at h
  subst h
  split
  · rfl
  · split
    · exact s.lost_keepsTimers.trans (.of_timing rfl)
    · exact .of_timing rfl

theorem pinReset_keepsTimers (h : execPinReset s = .next t) : s.KeepsTimers t := by
  simp only [execPinReset, Host.Outcome.next.injEq] at h
  subst h
  refine .of_timing ?_
  split
  · rfl
  · split <;> rfl

/-- A load fills the meters and clears the notices, and STARTED is requested (R76, R141). -/
theorem startUpLoadEnd_keepsTimers (h : execStartUpLoadEnd s = .next t) : s.KeepsTimers t := by
  simp only [execStartUpLoadEnd, Host.Outcome.next.injEq] at h
  subst h
  split
  case h_1 cause _ =>
    have hnotices (image : Image) : (s.loaded cause image).notices = .both .quiet := by cases cause <;> rfl
    have hloaded : s.KeepsTimers (s.loaded cause s.store.select.image) :=
      .of_ok (State.metersOk_of_full rfl) (State.noticesOk_of_quiet (hnotices _))
    exact hloaded.trans (.requestBoth _ _ _)
  all_goals rfl

/-! ### Links -/

theorem framingError_keepsTimers {l : Line} {x : Character} (h : execFramingError l x s = .next t) :
    s.KeepsTimers t := by
  refine .of_whenRunning h (.of_timing ?_)
  split
  · exact State.timing_countFraming _ l
  all_goals rfl

theorem characterReceived_keepsTimers {l : Line} {x : Character}
    (h : execCharacterReceived l x s = .next t) : s.KeepsTimers t := by
  refine .of_whenRunning h (.of_timing ?_)
  split <;> rfl

theorem frameGapPause_keepsTimers {l : Line} (h : execFrameGapPause l s = .next t) : s.KeepsTimers t := by
  refine .of_whenRunning h (.of_timing ?_)
  dsimp only
  split
  · rfl
  all_goals exact State.timing_countFraming _ l

/-- A link that goes UP is announced to the other port (R28). -/
theorem State.KeepsTimers.supervise (s : State) (p : Port) : s.KeepsTimers (s.supervise p) := by
  have hup : s.KeepsTimers (s.linkUp p) := .of_timing rfl
  rw [State.supervise_eq]
  split
  · exact hup.trans (.request _ _ _ _)
  · exact hup

theorem controlTelegram_keepsTimers {p : Port} {last : Byte} (h : execControlTelegram p last s = .next t) :
    s.KeepsTimers t := by
  refine .of_whenRunning h ?_
  split
  case h_1 telegram _ =>
    have hcounted : s.KeepsTimers ((s.withAssembly (.control p) (.hunt false)).count p .telegramsIn) :=
      .of_timing rfl
    exact (hcounted.trans (.supervise _ p)).trans (.of_timing (State.timing_deliver _ p telegram))
  all_goals rfl

theorem silenceTimerExpiry_keepsTimers {x : SilenceStep} (h : execSilenceTimerExpiry x s = .next t) :
    s.KeepsTimers t := by
  refine .of_whenRunning h ?_
  cases x with
  | expiry p =>
    refine .of_timing ?_
    dsimp only [State.fallSilent]
    split <;> rfl
  | notice p =>
    dsimp only [State.notePeerDown]
    split
    · rfl
    case h_2 n _ =>
      have htaken : s.KeepsTimers { s with noticeDown := s.noticeDown.set p n } := .of_timing rfl
      exact htaken.trans (.request _ _ _ _)

/-! ### Field telegrams -/

theorem State.KeepsTimers.signOfLife (s : State) (telegram : Telegram) :
    s.KeepsTimers (s.signOfLife telegram) := by
  unfold State.signOfLife
  split
  · exact (State.KeepsTimers.of_timing (State.timing_withStation _ _ _)).trans (.requestBoth _ _ _)
  · rfl

theorem State.timing_takeRsp (s : State) (rsp : Telegram) : (s.takeRsp rsp).timing = s.timing := by
  unfold State.takeRsp
  split
  case h_1 e _ =>
    exact State.timing_withStation { s with entries := s.entries.erase e } e.station.toNat
      { s.station e.station.toNat with state := .idle, streak := 0 }
  case h_2 => exact s.timing_unmatchedRsp rsp

/-- An EVT that finds no place requests EVENT_GAP (R133). -/
theorem State.KeepsTimers.offerTo (s : State) (evt : Telegram) (route : Route) (p : Port) :
    s.KeepsTimers (s.offerTo evt route p) := by
  unfold State.offerTo State.offerEvt
  split
  · dsimp only
    split
    · exact .of_timing rfl
    · have hgap : s.KeepsTimers ((s.count p .eventsDropped).withOutput p { s.output p with gap := true }) :=
        .of_timing rfl
      exact hgap.trans (.request _ _ _ _)
  · rfl

theorem State.KeepsTimers.routeEvt (s : State) (evt : Telegram) : s.KeepsTimers (s.routeEvt evt) := by
  have hcounted : s.KeepsTimers (s.countRoute evt) := by
    refine .of_timing ?_
    unfold State.countRoute
    split
    · rfl
    · split <;> rfl
  exact (hcounted.trans (.offerTo _ evt _ .a)).trans (.offerTo _ evt _ .b)

theorem fieldTelegram_keepsTimers {last : Byte} (h : execFieldTelegram last s = .next t) :
    s.KeepsTimers t := by
  refine .of_whenRunning h ?_
  split
  case h_1 telegram _ =>
    have hcounted : s.KeepsTimers ((s.withAssembly .field (.hunt false)).countField .telegramsIn) :=
      .of_timing rfl
    have hheard := hcounted.trans (.signOfLife _ telegram)
    unfold State.takeFieldTelegram
    dsimp only
    split
    · split
      · exact hheard.trans (.of_timing (State.timing_takeRsp _ telegram))
      · exact hheard.trans (.of_timing rfl)
    · exact hheard.trans (.routeEvt _ telegram)
    all_goals exact hheard.trans (.of_timing rfl)
  all_goals rfl

/-! ### Screening and the meter bank -/

/-- A token that is taken leaves its meter fitting (R69). -/
theorem State.KeepsTimers.takeToken (s : State) (n : Nat) : s.KeepsTimers (s.takeToken n) := by
  rw [State.takeToken_eq]
  refine .of_meters (fun i hi => ?_) rfl
  rw [metersTaken_get]
  split
  · exact hi.take s.now
  · exact hi

theorem screening_keepsTimers {x : ScreeningStep} (h : execScreening x s = .next t) : s.KeepsTimers t := by
  refine .of_whenRunning h ?_
  cases x with
  | judge p =>
    dsimp only [State.judgeFirst]
    split
    · rfl
    case h_2 telegram rest _ =>
      have htaken : s.KeepsTimers { s with toScreen := s.toScreen.set p rest } := .of_timing rfl
      refine htaken.trans ?_
      cases s.screen p telegram with
      | absorbed => exact .of_timing rfl
      | refused st => exact .of_timing rfl
      | admitted r meter => exact (State.KeepsTimers.takeToken _ meter).trans (.of_timing rfl)
  | place p => exact .of_timing rfl
  | release p => exact .of_timing rfl

/-- The running out of a refill timer leaves its meter fitting (R73). -/
theorem meterRefill_keepsTimers {n : Nat} (h : execMeterRefill n s = .next t) : s.KeepsTimers t := by
  refine .of_whenRunning h ?_
  by_cases hn : ∃ i : Fin 32, n = i.val + 1
  · obtain ⟨i, rfl⟩ := hn
    rw [State.meter_of_fin]
    dsimp only
    split
    · rfl
    case h_2 due hdue =>
      rw [State.withMeter_of_fin]
      refine .of_meters (fun j hj => ?_) rfl
      by_cases hij : i = j
      · subst hij
        simpa using hj.refilled (by rw [hdue]; rfl) (s.reach due).now
      · have hne : i.val ≠ j.val := fun heq => hij (Fin.ext heq)
        simpa [hne] using hj
  · rw [State.meter_of_no_meter s (not_exists.1 hn)]

theorem hitCountRaise_keepsTimers {station : Byte} {block : Nat}
    (h : execHitCountRaise station block s = .next t) : s.KeepsTimers t := by
  refine .of_whenRunning h (.of_timing ?_)
  dsimp only
  split <;> rfl

/-! ### Dispatch, transactions and stations -/

theorem dispatch_keepsTimers (h : execDispatch s = .next t) : s.KeepsTimers t := by
  have hreq (r : HeldReq) : (s.dispatchReq r).timing = s.timing :=
    s.timing_withStation r.station.toNat { s.station r.station.toNat with state := .busy }
  refine .of_whenRunning h (.of_timing ?_)
  split
  · rfl
  · split <;> exact hreq _

theorem fieldTransmissionEnd_keepsTimers (h : execFieldTransmissionEnd s = .next t) : s.KeepsTimers t := by
  refine .of_whenRunning h (.of_timing ?_)
  split <;> rfl

theorem deadline_keepsTimers {tag : Byte} (h : execDeadline tag s = .next t) : s.KeepsTimers t := by
  refine .of_whenRunning h ?_
  split
  · rfl
  case h_2 e due _ =>
    refine State.KeepsTimers.trans (.of_timing ?_) ((State.KeepsTimers.deadlineClaims _ _ _ _ .a).trans
      (.deadlineClaims _ _ _ _ .b))
    exact State.timing_withStation (s.reach due) _ _

theorem holdTimerExpiry_keepsTimers {n : Nat} (h : execHoldTimerExpiry n s = .next t) :
    s.KeepsTimers t := by
  refine .of_whenRunning h ?_
  split
  · rfl
  case h_2 due _ =>
    refine State.KeepsTimers.trans (.of_timing ?_) (.requestBoth _ _ _)
    exact State.timing_withStation (s.reach due) _ _

theorem isolatedPurge_keepsTimers (h : execIsolatedPurge s = .next t) : s.KeepsTimers t := by
  refine .of_whenRunning h (.of_timing ?_)
  split
  · rfl
  · exact State.timing_purge _ _ _

/-! ### The lease groups -/

theorem leaseTake_keepsTimers (h : execLeaseTake s = .next t) : s.KeepsTimers t := by
  refine .of_whenOp h fun m => .of_timing ?_
  split
  · dsimp only
    split
    · rfl
    · split
      · split
        · exact (State.timing_finish _ _ _ _).trans (s.timing_grant _ _ _)
        · rfl
      · exact (State.timing_finish _ _ _ _).trans (s.timing_grant _ _ _)
  · rfl

theorem leaseRenew_keepsTimers (h : execLeaseRenew s = .next t) : s.KeepsTimers t := by
  refine .of_whenOp h fun m => .of_timing ?_
  split
  · split
    · rfl
    · split
      · split
        · exact (State.timing_finish _ _ _ _).trans (s.timing_grant _ _ _)
        · rfl
      · rfl
  · rfl

/-- A loss frees a group and drops held requests (R88). -/
theorem State.timing_loseGroup (s : State) (p : Port) (g : Nat) : (s.loseGroup p g).timing = s.timing :=
  s.timing_withLease g none

theorem leaseRelease_keepsTimers (h : execLeaseRelease s = .next t) : s.KeepsTimers t := by
  refine .of_whenOp h fun m => ?_
  split
  case h_1 g _ =>
    split
    · exact .of_timing rfl
    · split
      · split
        · refine State.KeepsTimers.trans (.of_timing ?_) (.runClaim_and (fun u => ?_) _ _)
          · exact s.freeSlot.timing_loseGroup m.port g.toNat
          · exact .of_timing rfl
        · exact .of_timing rfl
      · exact .of_timing rfl
  case h_2 => exact .of_timing rfl

theorem leaseExpiry_keepsTimers {g : Nat} (h : execLeaseExpiry g s = .next t) : s.KeepsTimers t := by
  refine .of_whenRunning h ?_
  split
  · rfl
  case h_2 l _ =>
    refine State.KeepsTimers.trans (.of_timing ?_) (.runClaim_and (fun u => .request u _ _ _) _ _)
    exact (s.reach l.expiry).timing_loseGroup l.holder g

theorem leaseReleaseOnLinkDown_keepsTimers {p : Port} (h : execLeaseReleaseOnLinkDown p s = .next t) :
    s.KeepsTimers t := by
  refine .of_whenRunning h ?_
  split
  · rfl
  · dsimp only
    split
    · exact .of_timing rfl
    · refine State.KeepsTimers.trans (.of_timing ?_) (.runClaim_and (fun u => .request u _ _ _) _ _)
      rfl

/-! ### Output units, notices and the session -/

theorem portSendEnd_keepsTimers {p : Port} (h : execPortSendEnd p s = .next t) : s.KeepsTimers t := by
  refine .of_whenRunning h (.of_timing ?_)
  split <;> rfl

/-- A repeat timer stops only when no enabled flag is pending (R136). -/
theorem noticeRepeatExpiry_keepsTimers {p : Port} (h : execNoticeRepeatExpiry p s = .next t) :
    s.KeepsTimers t := by
  refine .of_whenRunning h ?_
  split
  · rfl
  case h_2 due _ =>
    refine State.KeepsTimers.trans (t := s.reach due) (.of_timing rfl) ?_
    dsimp only
    split
    · exact .offerNtc _ p
    case isFalse hquiet =>
      exact .withNotice fun _ hshown => absurd ((State.announces_iff _ _).2 hshown) hquiet

/-- A flag that is pending and enabled after NOTICE_ACK was so before it (R138). -/
theorem NoticeState.and_ne_zero_of_clear {n : NoticeState} {set mask : BitVec 10}
    (h : (n.clear set).flags &&& mask ≠ 0) : n.flags &&& mask ≠ 0 := by
  refine fun hzero => h ?_
  change n.flags &&& ~~~set &&& mask = 0
  rw [BitVec.and_assoc, BitVec.and_comm (~~~set), ← BitVec.and_assoc, hzero]
  exact BitVec.zero_and

theorem noticeAck_keepsTimers (h : execNoticeAck s = .next t) : s.KeepsTimers t := by
  refine .of_whenOp h fun m => ?_
  split
  case h_1 hi lo _ =>
    refine State.KeepsTimers.trans (.withNotice fun hs hshown => ?_) (.of_timing rfl)
    have hbefore := (s.announces_iff m.port).2 (NoticeState.and_ne_zero_of_clear hshown)
    dsimp only
    split
    case isTrue hquiet => exact absurd (of_decide_eq_true hquiet) hshown
    case isFalse => exact hs hbefore
  case h_2 => exact .of_timing rfl

theorem sessionOpen_keepsTimers (h : execSessionOpen s = .next t) : s.KeepsTimers t := by
  refine .of_whenOp h fun m => .of_timing ?_
  split
  · split
    · rfl
    · split
      · split
        · rfl
        · split <;> rfl
      · split <;> rfl
  · rfl

theorem sessionClose_keepsTimers (h : execSessionClose s = .next t) : s.KeepsTimers t :=
  .of_whenOp h fun m => .of_whenOwner m fun _ => .of_timing rfl

theorem sessionIdleExpiry_keepsTimers (h : execSessionIdleExpiry s = .next t) : s.KeepsTimers t := by
  refine .of_whenRunning h ?_
  split
  · rfl
  case h_2 x _ =>
    have hends : s.KeepsTimers ((s.reach x.idle).withSession none) := .of_timing rfl
    exact hends.trans (.request _ _ _ _)

theorem sessionEndOnLinkDown_keepsTimers {p : Port} (h : execSessionEndOnLinkDown p s = .next t) :
    s.KeepsTimers t := by
  refine .of_whenRunning h ?_
  split
  · rfl
  · dsimp only
    split
    · split
      · refine State.KeepsTimers.trans (.of_timing ?_) (.request _ _ _ _)
        rfl
      · exact .of_timing rfl
    · exact .of_timing rfl

/-! ### The change list -/

/-- A stage operation changes the session at most (R151, R152). -/
theorem State.KeepsTimers.stageParsed (s : State) (m : Mgt) (item : Option ListItem) :
    s.KeepsTimers (s.stageParsed m item) := by
  refine .of_whenOwner m fun x => .of_timing ?_
  split
  · rfl
  · unfold State.stage
    split
    · rfl
    · split <;> rfl

theorem stageConfig_keepsTimers (h : execStageConfig s = .next t) : s.KeepsTimers t :=
  .of_whenOp h fun m => .stageParsed s m _

theorem stageAdd_keepsTimers (h : execStageAdd s = .next t) : s.KeepsTimers t :=
  .of_whenOp h fun m => .stageParsed s m _

theorem stageModify_keepsTimers (h : execStageModify s = .next t) : s.KeepsTimers t :=
  .of_whenOp h fun m => .stageParsed s m _

theorem stageDelete_keepsTimers (h : execStageDelete s = .next t) : s.KeepsTimers t :=
  .of_whenOp h fun m => .stageParsed s m _

theorem discard_keepsTimers (h : execDiscard s = .next t) : s.KeepsTimers t :=
  .of_whenOp h fun m => .of_whenOwner m fun _ => .of_timing rfl

theorem listRead_keepsTimers (h : execListRead s = .next t) : s.KeepsTimers t := by
  refine .of_whenOp h fun m => .of_whenOwner m fun x => .of_timing ?_
  split
  · split
    · rfl
    · split <;> rfl
  · rfl

/-- An item of another kind leaves a configuration item as it was (R153). -/
theorem Working.tryItem_get {w w' : Working} {role : Role} {lock : Bool} {item : ListItem} {i : ConfigItem}
    (hno : item.configures i = false) (h : w.tryItem role lock item = .ok w') :
    w'.settings.get i = w.settings.get i := by
  cases item with
  | add e =>
    obtain ⟨v, _, _, rfl⟩ := Working.tryAdd_ok h
    rfl
  | modify e =>
    obtain ⟨v, old, _, _, rfl⟩ := Working.tryModify_ok h
    rfl
  | delete k =>
    obtain ⟨v, rfl⟩ := Working.tryDelete_ok h
    rfl
  | config j n =>
    have hne : i ≠ j := fun hij => by simp [ListItem.configures, hij] at hno
    by_cases hj : j = .protectedWays
    · subst hj
      obtain ⟨_, rfl⟩ := Working.tryWays_ok h
      exact w.settings.get_put_other n hne
    · rw [Working.tryItem_config w role lock n hj] at h
      cases h
      exact w.settings.get_put_other n hne

/-- A list without a CONFIG item of `i` leaves it as it was (R153). -/
theorem Working.tryItems_get {role : Role} {lock : Bool} {i : ConfigItem} {items : List ListItem}
    (hno : ∀ item ∈ items, item.configures i = false) :
    ∀ {w w' : Working} {k : Nat}, Working.tryItems role lock k w items = .ok w' →
      w'.settings.get i = w.settings.get i := by
  induction items with
  | nil =>
    intro w w' k h
    cases h
    rfl
  | cons item rest ih =>
    intro w w' k h
    unfold Working.tryItems at h
    split at h
    · cases h
    case h_2 u hu =>
      exact (ih (fun x hx => hno x (List.mem_cons_of_mem _ hx)) h).trans
        (Working.tryItem_get (hno item List.mem_cons_self) hu)

/-- A mask that a list does not carry is the one before it (R139). -/
theorem Working.tryItems_mask {role : Role} {lock : Bool} {p : Port} {items : List ListItem} {w w' : Working}
    {k : Nat} (hno : ¬items.any (·.configures (.noticeMask p)) = true)
    (h : Working.tryItems role lock k w items = .ok w') :
    w'.settings.noticeMask.get p = w.settings.noticeMask.get p :=
  BitVec.eq_of_toNat_eq (Working.tryItems_get (i := .noticeMask p) (by simpa using hno) h)

/-- An APPLY adjusts the meters by Table 4-4, and a mask change starts a stopped repeat timer (R75, R139). -/
theorem State.KeepsTimers.takeEffect {x : Session} {w : Working}
    (h : Working.tryItems x.role s.lock 0 ⟨s.table, s.settings⟩ x.list = .ok w) :
    s.KeepsTimers (s.takeEffect x w) := by
  refine ⟨fun hs => (State.metersOk_iff _).2 fun n => ?_, fun hs p hdone => ?_⟩
  · rw [State.takeEffect_eq]
    change Meter.Ok (s.adjustMeters x.list w.settings)[n]
    rw [State.adjustMeters_get]
    exact (s.metersOk_iff.1 hs n).adjusted _ _ _
  · refine State.maskChanges_remind (s.applied x w) x.list p ?_
    by_cases hcarries : carries x.list (.noticeMask p) = true
    · exact .inl hcarries
    · rw [State.takeEffect_eq] at hdone
      rw [carries_eq] at hcarries
      exact .inr (State.Reminds.congr (hs p hdone) rfl (Working.tryItems_mask hcarries h))

theorem apply_keepsTimers (h : execApply s = .next t) : s.KeepsTimers t := by
  refine .of_whenOp h fun m => .of_whenOwner m fun x => ?_
  split
  · exact .of_timing rfl
  · split
    · exact .of_timing rfl
    · split
      · exact .of_timing rfl
      case h_2 w hw => exact (State.KeepsTimers.takeEffect hw).trans (.of_timing (State.timing_finish _ _ _ _))

/-! ### The reads and the mode -/

theorem unknownOp_keepsTimers (h : execUnknownOp s = .next t) : s.KeepsTimers t :=
  .of_whenMgt h fun _ => .of_timing rfl

theorem echo_keepsTimers (h : execEcho s = .next t) : s.KeepsTimers t :=
  .of_whenMgt h fun _ => .of_timing rfl

theorem leaseStatus_keepsTimers (h : execLeaseStatus s = .next t) : s.KeepsTimers t :=
  .of_whenOp h fun _ => .of_timing rfl

theorem readStore_keepsTimers (h : execReadStore s = .next t) : s.KeepsTimers t :=
  .of_whenOp h fun _ => .of_timing rfl

theorem readConfig_keepsTimers (h : execReadConfig s = .next t) : s.KeepsTimers t := by
  refine .of_whenOp h fun m => .of_timing ?_
  split
  · split <;> rfl
  · rfl

theorem readEntry_keepsTimers (h : execReadEntry s = .next t) : s.KeepsTimers t := by
  refine .of_whenOp h fun m => .of_timing ?_
  split
  · rfl
  · split <;> rfl

theorem readBucket_keepsTimers (h : execReadBucket s = .next t) : s.KeepsTimers t := by
  refine .of_whenOp h fun m => .of_timing ?_
  split
  · split <;> rfl
  · rfl

theorem readStation_keepsTimers (h : execReadStation s = .next t) : s.KeepsTimers t := by
  refine .of_whenOp h fun m => .of_timing ?_
  split
  · split <;> rfl
  · rfl

theorem readCounters_keepsTimers (h : execReadCounters s = .next t) : s.KeepsTimers t := by
  refine .of_whenOp h fun m => .of_timing ?_
  split
  · split <;> rfl
  · rfl

theorem clearCounters_keepsTimers (h : execClearCounters s = .next t) : s.KeepsTimers t :=
  .of_whenOp h fun m => .of_whenOwner m fun _ => .of_timing rfl

theorem setMode_keepsTimers (h : execSetMode s = .next t) : s.KeepsTimers t := by
  refine .of_whenOp h fun m => .of_whenOwner m fun x => .of_timing ?_
  split
  · split <;> rfl
  · rfl

/-! ### The store and RESTART -/

theorem State.KeepsTimers.storeOperation {kind : StoreKind} (h : s.storeOperation kind = .next t) :
    s.KeepsTimers t := by
  refine .of_whenOp h fun m => .of_whenOwner m fun x => .of_timing ?_
  split <;> rfl

/-- The MGA of the operation, and its notice on both ports (R169, R170). -/
theorem State.KeepsTimers.storeReport (s : State) (op : StoreOp) (st : MgtStatus) (data : List Byte)
    (f : NoticeFlag) : s.KeepsTimers (s.storeReport op st data f) := by
  refine State.KeepsTimers.trans (.inSomeOrder fun claim hclaim u => ?_) (.request _ _ _ _)
  simp only [List.mem_cons, List.not_mem_nil, or_false] at hclaim
  obtain rfl | rfl := hclaim
  · exact .of_timing rfl
  · exact .request u _ _ _

theorem storeWriteEnd_keepsTimers {result : ReadBack} (h : execStoreWriteEnd result s = .next t) :
    s.KeepsTimers t := by
  refine .of_whenRunning h ?_
  split
  · rfl
  case h_2 op _ =>
    cases result with
    | equal =>
      refine State.KeepsTimers.trans (.of_timing ?_) (.storeReport _ _ _ _ _)
      rw [State.timing_storeEffect]
      rfl
    | mismatch =>
      refine State.KeepsTimers.trans (.of_timing ?_) (.storeReport _ _ _ _ _)
      rfl

theorem storeLimitExpiry_keepsTimers (h : execStoreLimitExpiry s = .next t) : s.KeepsTimers t := by
  refine .of_whenRunning h ?_
  split
  · rfl
  · refine State.KeepsTimers.trans (.of_timing ?_) (.storeReport _ _ _ _ _)
    rfl

/-- Between the reload and the port's part of a RESTART nothing is asked of its repeat timer (R178). -/
theorem State.KeepsTimers.reload (s : State) : s.KeepsTimers s.reload := by
  refine ⟨fun hs => hs, fun _ p hdone => ?_⟩
  have hnot := hdone _ rfl
  rw [PerPort.get_both] at hnot
  cases hnot

theorem restart_keepsTimers (h : execRestart s = .next t) : s.KeepsTimers t := by
  refine .of_whenOp h fun m => .of_whenOwner m fun x => ?_
  split
  · exact .of_timing rfl
  · exact .reload s

/-- The parts of a RESTART at other units leave the notice unit's parts as they were (R178). -/
theorem State.KeepsTimers.of_part {r r' : RestartRun} (hr : s.restart = some r)
    (hpart : r'.noticeDone = r.noticeDone) : s.KeepsTimers { s with restart := some r' } := by
  refine ⟨fun hs => hs, fun hs p hdone => hs p ?_⟩
  rw [hr]
  rintro _ ⟨⟩
  exact hpart ▸ hdone r' rfl

/-- The meters are full after the part of the screening unit (R76). -/
theorem restartHoldAndLeasePart_keepsTimers (h : execRestartHoldAndLeasePart s = .next t) :
    s.KeepsTimers t := by
  refine .of_whenRestarting h fun r hr _ => ?_
  refine State.KeepsTimers.trans ?_ (.of_timing (State.timing_purge _ _ _))
  exact ⟨fun _ => State.metersOk_of_full rfl,
    (State.KeepsTimers.of_part (r' := { r with holdDone := true }) hr rfl).notices⟩

theorem restartTransactionPart_keepsTimers (h : execRestartTransactionPart s = .next t) :
    s.KeepsTimers t := by
  refine .of_whenRestarting h fun r hr _ => ?_
  refine (State.KeepsTimers.of_part (r' := { r with transactionDone := true }) hr rfl).trans (.of_timing ?_)
  dsimp only
  rw [State.timing_runClaim, State.timing_runClaim]
  rfl

/-- The part of port `p` starts its timer, and asks nothing of the other port (R141, R178). -/
theorem restartNoticePart_keepsTimers {p : Port} (h : execRestartNoticePart p s = .next t) :
    s.KeepsTimers t := by
  refine .of_whenRestarting h fun r hr _ => ⟨fun hs => ?_, fun hs q hdone => ?_⟩
  · rw [State.MetersOk, State.maskChange_meters, State.request_meters]
    exact hs
  · obtain rfl | rfl := Port.eq_or_eq_other q p
    · exact State.maskChange_reminds _ q
    · rw [State.maskChange_restart, State.request_restart] at hdone
      have hbefore : s.Reminds p.other := by
        refine hs p.other ?_
        rw [hr]
        rintro _ ⟨⟩
        exact (PerPort.get_set_other r.noticeDone p true).symm.trans (hdone _ rfl)
      refine (State.Reminds.request ?_ _ _ p).maskChange p
      exact hbefore.congr rfl rfl

/-- A RESTART is answered once both ports have taken their parts (R179). -/
theorem restartAnswer_keepsTimers (h : execRestartAnswer s = .next t) : s.KeepsTimers t := by
  refine .of_whenRestarting h fun r hr hcomplete => ?_
  split
  · refine ⟨fun hs => hs, fun hs p _ => hs p ?_⟩
    rw [hr]
    rintro _ ⟨⟩
    simp only [RestartRun.complete, Bool.and_eq_true] at hcomplete
    obtain ⟨⟨_, ha⟩, hb⟩ := hcomplete
    cases p
    · exact ha
    · exact hb
  · rfl

end Commands

/-! ### Every command -/

/-- Every command keeps the meters and the repeat timers. -/
theorem exec_keepsTimers {c : Instr} {s t : State} (h : exec c s = .next t) : s.KeepsTimers t := by
  cases c with
  | powerOn => exact powerOn_keepsTimers h
  | powerFail => exact powerFail_keepsTimers h
  | resetNFall => exact resetNFall_keepsTimers h
  | pinReset => exact pinReset_keepsTimers h
  | startUpLoadEnd => exact startUpLoadEnd_keepsTimers h
  | framingError l x => exact framingError_keepsTimers h
  | frameGapPause l => exact frameGapPause_keepsTimers h
  | controlTelegram p last => exact controlTelegram_keepsTimers h
  | silenceTimerExpiry x => exact silenceTimerExpiry_keepsTimers h
  | leaseReleaseOnLinkDown p => exact leaseReleaseOnLinkDown_keepsTimers h
  | sessionEndOnLinkDown p => exact sessionEndOnLinkDown_keepsTimers h
  | fieldTelegram last => exact fieldTelegram_keepsTimers h
  | screening x => exact screening_keepsTimers h
  | hitCountRaise station block => exact hitCountRaise_keepsTimers h
  | dispatch => exact dispatch_keepsTimers h
  | fieldTransmissionEnd => exact fieldTransmissionEnd_keepsTimers h
  | deadline tag => exact deadline_keepsTimers h
  | holdTimerExpiry n => exact holdTimerExpiry_keepsTimers h
  | meterRefill n => exact meterRefill_keepsTimers h
  | leaseExpiry g => exact leaseExpiry_keepsTimers h
  | isolatedPurge => exact isolatedPurge_keepsTimers h
  | portSendEnd p => exact portSendEnd_keepsTimers h
  | noticeRepeatExpiry p => exact noticeRepeatExpiry_keepsTimers h
  | sessionIdleExpiry => exact sessionIdleExpiry_keepsTimers h
  | unknownOp => exact unknownOp_keepsTimers h
  | echo => exact echo_keepsTimers h
  | sessionOpen => exact sessionOpen_keepsTimers h
  | sessionClose => exact sessionClose_keepsTimers h
  | readConfig => exact readConfig_keepsTimers h
  | stageConfig => exact stageConfig_keepsTimers h
  | stageAdd => exact stageAdd_keepsTimers h
  | stageModify => exact stageModify_keepsTimers h
  | stageDelete => exact stageDelete_keepsTimers h
  | listRead => exact listRead_keepsTimers h
  | apply => exact apply_keepsTimers h
  | discard => exact discard_keepsTimers h
  | commit => exact .storeOperation h
  | setLock => exact .storeOperation h
  | eraseProtected => exact .storeOperation h
  | readEntry => exact readEntry_keepsTimers h
  | readBucket => exact readBucket_keepsTimers h
  | readStation => exact readStation_keepsTimers h
  | readCounters => exact readCounters_keepsTimers h
  | clearCounters => exact clearCounters_keepsTimers h
  | leaseTake => exact leaseTake_keepsTimers h
  | leaseRenew => exact leaseRenew_keepsTimers h
  | leaseRelease => exact leaseRelease_keepsTimers h
  | leaseStatus => exact leaseStatus_keepsTimers h
  | noticeAck => exact noticeAck_keepsTimers h
  | setMode => exact setMode_keepsTimers h
  | readStore => exact readStore_keepsTimers h
  | restart => exact restart_keepsTimers h
  | restartHoldAndLeasePart => exact restartHoldAndLeasePart_keepsTimers h
  | restartTransactionPart => exact restartTransactionPart_keepsTimers h
  | restartNoticePart p => exact restartNoticePart_keepsTimers h
  | restartAnswer => exact restartAnswer_keepsTimers h
  | storeWriteEnd result => exact storeWriteEnd_keepsTimers h
  | storeLimitExpiry => exact storeLimitExpiry_keepsTimers h
  | characterReceived l x => exact characterReceived_keepsTimers h

/-- Settles O58: a tick changes nothing that the invariants read, and every command keeps each of them. -/
theorem everyStepKeepsSessionMetersAndNotices : Obligations.EveryStepKeepsSessionMetersAndNotices := by
  intro s t h
  unfold step at h
  split at h
  case h_1 =>
    cases h
    exact ⟨fun hs => hs, fun hs => hs, fun hs => hs⟩
  case h_2 c rest _ =>
    have htaken : s.KeepsTimers { s with pending := rest } := .of_timing rfl
    obtain ⟨hmeters, hnotices⟩ := htaken.trans (exec_keepsTimers h)
    exact ⟨fun hs => exec_sessionOk (s := { s with pending := rest }) hs h, hmeters, hnotices⟩

end Sys2Proof.Machine

/-! ## The image store under every step (R163, R165 to R170) -/

namespace Sys2Proof.Machine

/-! ### The slots and the newest image -/

theorem Store.slot_withSlot (st : Store) (i j : Fin 2) (x : ImageSlot) :
    (st.withSlot i x).slot j = if j = i then x else st.slot j := by
  fin_cases i <;> fin_cases j <;> rfl

theorem Store.withSlot_eq (st : Store) (i : Fin 2) (x : ImageSlot) :
    st.withSlot i x = { st with
      slot0 := if i = 0 then x else st.slot0
      slot1 := if i = 1 then x else st.slot1 } := by
  fin_cases i <;> rfl

/-- Every VALID image of the store has a generation below `n`. -/
def Store.GenerationsBelow (st : Store) (n : Nat) : Prop :=
  ∀ i g image, st.slot i = .valid g image → g < n

/-- The newest image stands in its slot, and no VALID image has a higher generation (R163). -/
theorem Store.newest_some {st : Store} {i : Fin 2} {g : Nat} {image : Image}
    (h : st.newest = some (i, g, image)) : st.slot i = .valid g image ∧ st.GenerationsBelow (g + 1) := by
  unfold Store.GenerationsBelow
  simp only [Fin.forall_fin_two, Store.slot, Fin.isValue, one_ne_zero, if_true, if_false]
  unfold Store.newest at h
  split at h
  case h_1 =>
    split at h
    all_goals
      cases h
      simp_all
    omega
  all_goals cases h <;> simp_all

/-- There is no newest image when no slot is VALID (R163). -/
theorem Store.newest_none {st : Store} (h : st.newest = none) (n : Nat) : st.GenerationsBelow n := by
  unfold Store.GenerationsBelow
  simp only [Fin.forall_fin_two, Store.slot, Fin.isValue, one_ne_zero, if_true, if_false]
  unfold Store.newest at h
  split at h
  case h_1 => split at h <;> cases h
  all_goals simp_all

/-- The newest image bounds the generations of all. -/
theorem Store.forall_newest_lt_iff (st : Store) (n : Nat) :
    (∀ x ∈ st.newest, x.2.1 < n) ↔ st.GenerationsBelow n := by
  cases hnewest : st.newest with
  | none => exact iff_of_true nofun (Store.newest_none hnewest n)
  | some x =>
    obtain ⟨i, g, image⟩ := x
    obtain ⟨hslot, hbelow⟩ := Store.newest_some hnewest
    refine ⟨fun h j k image' hj => ?_, fun h => by rintro _ ⟨⟩; exact h i g image hslot⟩
    exact Nat.lt_of_le_of_lt (Nat.le_of_lt_succ (hbelow j k image' hj)) (h _ rfl)

/-- A slot that takes no image, or one with a generation below `n`, leaves the generations below `n`. -/
theorem Store.GenerationsBelow.withSlot {st : Store} {n : Nat} (h : st.GenerationsBelow n) (i : Fin 2)
    {x : ImageSlot} (hx : ∀ g image, x = .valid g image → g < n) : (st.withSlot i x).GenerationsBelow n := by
  intro j g image hj
  rw [Store.slot_withSlot] at hj
  split at hj
  · exact hx g image hj
  · exact h j g image hj

/-- A store operation takes the slot that does not hold the newest image (R167). -/
theorem Store.target_ne_newest {st : Store} {i : Fin 2} {g : Nat} {image : Image}
    (h : st.newest = some (i, g, image)) : i ≠ st.target := by
  rw [Store.target, h]
  fin_cases i
  · exact Fin.zero_ne_one
  · exact Fin.zero_ne_one.symm

/-! ### The checks of a store operation (R166, Table 10-2) -/

/-- Checks 2 to 7 of Table 10-2, in order. -/
theorem State.storeRefusal_eq (s : State) (x : Session) (kind : StoreKind) :
    s.storeRefusal x kind =
      if s.store.op.isSome = true then some .busy
      else if s.store.faulted = true then some .storeFaulted
      else if kind ≠ .commit ∧ x.list ≠ [] then some .listPending
      else if kind = .setLock ∧ s.lock = true then some .locked
      else if kind = .setLock ∧ x.role = .operator then some .wrongRole
      else if s.store.newest.any fun y => 4294967295 ≤ y.2.1 then some .storeFaulted
      else none := by
  simp only [State.storeRefusal, Bool.and_eq_true, Bool.not_eq_true', decide_eq_true_eq,
    List.isEmpty_eq_false_iff]
  cases s.store.newest with
  | none => rfl
  | some y => simp

/-- Check 7: the newest image carries the last generation. -/
theorem Store.spent_iff (st : Store) : (st.newest.any fun y => decide (4294967295 ≤ y.2.1)) = true
    ↔ ∃ i g image, st.newest = some (i, g, image) ∧ 4294967295 ≤ g := by
  rcases st.newest with _ | ⟨i, g, image⟩
  · simp
  · constructor
    · exact fun h => ⟨i, g, image, rfl, of_decide_eq_true h⟩
    · rintro ⟨_, _, _, ⟨⟩, h⟩
      exact decide_eq_true h

/-! ### What a command can do to the store -/

/-- What any command can leave of the store. -/
inductive StoreChanges (before after : Store) : Prop
  | kept (h : after = before)
  | survived (hs : before.Survives after)
      (hcount : after.failures = before.failures ∧ after.faulted = before.faulted ∨ after.failures = 0)
  | started (op : StoreOp) (hidle : before.op = none) (hfaulted : before.faulted = false)
      (hspent : ∀ x ∈ before.newest, x.2.1 < 4294967295) (htarget : op.target = before.target)
      (hgeneration : op.generation = before.nextGeneration)
      (h : after = { before.withSlot op.target .writing with op := some op })
  | failed (op : StoreOp) (hop : before.op = some op)
      (h : after = { before.withSlot op.target .erased with
        op := none
        failures := before.failures + 1
        faulted := before.faulted || 3 ≤ before.failures + 1 })
  | succeeded (op : StoreOp) (hop : before.op = some op)
      (h : after = { before.withSlot op.target (.valid op.generation op.image) with
        op := none, failures := 0 })

/-- A command that leaves the governed part, or changes fields of it beside the store, keeps the store. -/
theorem StoreChanges.of_governed {s t : State} {g : Governed} (h : t.governed = g) (hg : g.store = s.store) :
    StoreChanges s.store t.store := .kept ((congrArg Governed.store h).trans hg)

section Commands
variable {s t : State}

theorem powerFail_storeChanges (h : execPowerFail s = .next t) : StoreChanges s.store t.store := by
  simp only [execPowerFail, Host.Outcome.next.injEq] at h
  subst h
  split
  · exact .survived ⟨rfl, rfl, rfl⟩ (.inr rfl)
  · exact .kept rfl

theorem resetNFall_storeChanges (h : execResetNFall s = .next t) : StoreChanges s.store t.store := by
  simp only [execResetNFall, Host.Outcome.next.injEq] at h
  subst h
  split
  · exact .kept rfl
  · split
    · exact .survived ⟨rfl, rfl, rfl⟩ (.inl ⟨rfl, rfl⟩)
    · exact .kept rfl

theorem startUpLoadEnd_storeChanges (h : execStartUpLoadEnd s = .next t) : StoreChanges s.store t.store := by
  simp only [execStartUpLoadEnd, Host.Outcome.next.injEq] at h
  subst h
  split
  case h_1 cause _ =>
    have hstore : (s.startUp cause).store = (s.keptBy cause).store :=
      congrArg Governed.store (State.governed_requestBoth _ _ _)
    rw [hstore]
    cases cause with
    | powerOn => exact .survived ⟨rfl, rfl, rfl⟩ (.inr rfl)
    | pin => exact .survived ⟨rfl, rfl, rfl⟩ (.inl ⟨rfl, rfl⟩)
    | restart => exact .survived ⟨rfl, rfl, rfl⟩ (.inl ⟨rfl, rfl⟩)
  all_goals exact .kept rfl

/-- The checks that a started operation has passed (R166). -/
theorem State.storeRefusal_none {x : Session} {kind : StoreKind} (h : s.storeRefusal x kind = none) :
    s.store.op = none ∧ s.store.faulted = false ∧ ∀ y ∈ s.store.newest, y.2.1 < 4294967295 := by
  rw [State.storeRefusal_eq] at h
  split_ifs at h with hop hfaulted _ _ _ hspent
  rw [Store.spent_iff] at hspent
  exact ⟨by simpa using hop, by simpa using hfaulted,
    fun ⟨i, g, image⟩ hy => Nat.lt_of_not_le fun hg => hspent ⟨i, g, image, hy, hg⟩⟩

theorem storeOperation_storeChanges {kind : StoreKind} (h : s.storeOperation kind = .next t) :
    StoreChanges s.store t.store := by
  rcases State.whenOp_cases h with ⟨m, _, _, _, _, _, ⟨_, rfl⟩ | rfl⟩ | rfl
  · rcases s.whenOwner_cases m _ with ⟨_, heq⟩ | ⟨_, _, _, heq⟩ | ⟨x, _, _, heq⟩
    · rw [heq]; exact .kept rfl
    · rw [heq]; exact .kept rfl
    · rw [heq]
      split
      · exact .kept rfl
      · obtain ⟨hidle, hfaulted, hspent⟩ := State.storeRefusal_none ‹_›
        exact .started ⟨kind, s.store.target, s.store.nextGeneration, m.port, m.source, m.tag,
          s.imageSource kind, s.inMs Config.storeLimitMs⟩ hidle hfaulted hspent rfl rfl rfl
  · exact .kept rfl
  · exact .kept rfl

theorem State.storeFailure_store (op : StoreOp) (cause : Byte) :
    (s.storeFailure op cause).store = { s.store.withSlot op.target .erased with
      op := none
      failures := s.store.failures + 1
      faulted := s.store.faulted || 3 ≤ s.store.failures + 1 } :=
  congrArg Governed.store (State.governed_storeReport _ _ _ _ _)

theorem State.storeSuccess_store (op : StoreOp) :
    (s.storeSuccess op).store = { s.store.withSlot op.target (.valid op.generation op.image) with
      op := none, failures := 0 } :=
  (congrArg Governed.store (State.governed_storeReport _ _ _ _ _)).trans (by cases op.kind <;> rfl)

theorem storeWriteEnd_storeChanges {result : ReadBack} (h : execStoreWriteEnd result s = .next t) :
    StoreChanges s.store t.store := by
  rcases State.whenRunning_cases h with rfl | rfl
  · split
    case h_1 => exact .kept rfl
    case h_2 op hop =>
      cases result with
      | equal => exact .succeeded op hop (State.storeSuccess_store op)
      | mismatch => exact .failed op hop (State.storeFailure_store op 2)
  · exact .kept rfl

theorem storeLimitExpiry_storeChanges (h : execStoreLimitExpiry s = .next t) :
    StoreChanges s.store t.store := by
  rcases State.whenRunning_cases h with rfl | rfl
  · split
    case h_1 => exact .kept rfl
    case h_2 op hop => exact .failed op hop (State.storeFailure_store op 1)
  · exact .kept rfl

end Commands

/-- What any command can leave of the store: of the commands that can change the governed part, those of a
start and of a store operation reach it. -/
theorem exec_storeChanges {c : Instr} {s t : State} (h : exec c s = .next t) :
    StoreChanges s.store t.store := by
  cases exec_changes h with
  | nothing heq => exact .of_governed heq rfl
  | lost _ hc =>
    rcases hc with rfl | rfl
    · exact powerFail_storeChanges h
    · exact resetNFall_storeChanges h
  | loaded => exact startUpLoadEnd_storeChanges h
  | reloaded heq => exact .of_governed heq rfl
  | hit _ _ heq => exact .of_governed heq rfl
  | applied _ _ _ _ heq => exact .of_governed heq rfl
  | leases _ _ heq => exact .of_governed heq rfl
  | session _ _ _ heq => exact .of_governed heq rfl
  | dispatched _ heq => exact .of_governed heq rfl
  | mode _ heq => exact .of_governed heq rfl
  | restarted _ _ heq => exact .of_governed heq rfl
  | storeStarted _ _ _ hc =>
    rcases hc with rfl | rfl | rfl
    all_goals exact storeOperation_storeChanges h
  | storeFailed _ _ _ hc =>
    rcases hc with rfl | rfl
    · exact storeWriteEnd_storeChanges (result := .mismatch) h
    · exact storeLimitExpiry_storeChanges h
  | storeSucceeded => exact storeWriteEnd_storeChanges (result := .equal) h

/-! ### What every step keeps of the store -/

/-- The invariant of the store as a property of the store. -/
structure Store.Ok (st : Store) : Prop where
  target : ∀ op ∈ st.op, st.slot op.target = .writing
  newer : ∀ op ∈ st.op, st.GenerationsBelow op.generation
  width : st.GenerationsBelow 4294967296
  written : ∀ op ∈ st.op, op.generation ≤ 4294967295
  failures : st.failures ≤ 3
  faulted : st.failures = 3 → st.faulted = true
  started : st.op.isSome → st.failures < 3

theorem State.storeOk_iff (s : State) : s.StoreOk ↔ s.store.Ok := by
  have hnewer (op : StoreOp) := s.store.forall_newest_lt_iff op.generation
  have hwidth := s.store.forall_newest_lt_iff 4294967296
  constructor
  · rintro ⟨ht, hn, hw, hg, hf, hd, hs⟩
    exact ⟨ht, fun op hop => (hnewer op).1 (hn op hop), hwidth.1 fun x hx => Nat.lt_succ_of_le (hw x hx),
      hg, hf, hd, hs⟩
  · rintro ⟨ht, hn, hw, hg, hf, hd, hs⟩
    exact ⟨ht, fun op hop => (hnewer op).2 (hn op hop), fun x hx => Nat.le_of_lt_succ (hwidth.2 hw x hx),
      hg, hf, hd, hs⟩

theorem Store.Survives.slot {before after : Store} (h : before.Survives after) (i : Fin 2) :
    after.slot i = before.slot i := by
  rw [Store.slot, h.slot0, h.slot1, Store.slot]

/-- The generation that an operation writes is above every VALID one, and has 32 bits while the newest is not
the last (R166, R167). -/
theorem Store.nextGeneration_newer {st : Store} (hspent : ∀ x ∈ st.newest, x.2.1 < 4294967295) :
    st.GenerationsBelow st.nextGeneration ∧ st.nextGeneration ≤ 4294967295 := by
  unfold Store.nextGeneration
  cases hnewest : st.newest with
  | none => exact ⟨Store.newest_none hnewest 1, by decide⟩
  | some x =>
    obtain ⟨i, g, image⟩ := x
    exact ⟨(Store.newest_some hnewest).2, hspent _ hnewest⟩

/-- What any command can leave keeps the order of the store. -/
theorem StoreChanges.keepsOk {before after : Store} (h : StoreChanges before after) (hs : before.Ok) :
    after.Ok := by
  cases h with
  | kept h => rwa [h]
  | survived hkept hcount =>
    have hwidth : after.GenerationsBelow 4294967296 := fun i g image hi =>
      hs.width i g image (hkept.slot i ▸ hi)
    obtain ⟨hfailures, hfaulted⟩ : after.failures ≤ 3 ∧ (after.failures = 3 → after.faulted = true) := by
      rcases hcount with ⟨hf, hd⟩ | hf
      · rw [hf, hd]; exact ⟨hs.failures, hs.faulted⟩
      · rw [hf]; exact ⟨by decide, nofun⟩
    exact ⟨by rw [hkept.idle]; nofun, by rw [hkept.idle]; nofun, hwidth, by rw [hkept.idle]; nofun,
      hfailures, hfaulted, by rw [hkept.idle]; nofun⟩
  | started op hidle hfaulted hspent htarget hgeneration h =>
    obtain ⟨hnewer, hwritten⟩ := Store.nextGeneration_newer hspent
    rw [← hgeneration] at hnewer hwritten
    have hbelow : before.failures < 3 :=
      Nat.lt_of_le_of_ne hs.failures fun h3 => by simp [hs.faulted h3] at hfaulted
    have hfailures : (before.withSlot op.target .writing).failures = before.failures := by
      rw [Store.withSlot_eq]
    have hkept : (before.withSlot op.target .writing).faulted = before.faulted := by
      rw [Store.withSlot_eq]
    subst h
    refine ⟨?_, ?_, hs.width.withSlot _ nofun, ?_, ?_, ?_, ?_⟩
    · rintro _ ⟨⟩
      exact (Store.slot_withSlot _ _ _ _).trans (if_pos rfl)
    · rintro _ ⟨⟩
      exact hnewer.withSlot _ nofun
    · rintro _ ⟨⟩
      exact hwritten
    · exact hfailures ▸ hs.failures
    · exact hfailures ▸ hkept ▸ hs.faulted
    · exact fun _ => hfailures ▸ hbelow
  | failed op hop h =>
    have hbelow := hs.started (by rw [hop]; rfl)
    subst h
    refine ⟨nofun, nofun, hs.width.withSlot _ nofun, nofun, hbelow, fun h3 => ?_, nofun⟩
    have h3' : before.failures + 1 = 3 := h3
    simp [h3']
  | succeeded op hop h =>
    subst h
    refine ⟨nofun, nofun, hs.width.withSlot _ ?_, nofun, Nat.zero_le 3, nofun, nofun⟩
    rintro g image ⟨⟩
    exact Nat.lt_succ_of_le (hs.written op hop)

/-- No command alters the slot of the newest VALID image (R165). -/
theorem StoreChanges.keepsNewest {before after : Store} (h : StoreChanges before after) (hs : before.Ok)
    {i : Fin 2} {g : Nat} {image : Image} (hnewest : before.newest = some (i, g, image)) :
    after.slot i = .valid g image := by
  obtain ⟨hslot, _⟩ := Store.newest_some hnewest
  have hother (j : Fin 2) (x : ImageSlot) (hne : i ≠ j) : (before.withSlot j x).slot i = .valid g image := by
    rw [Store.slot_withSlot, if_neg hne, hslot]
  have hwriting (op : StoreOp) (hop : before.op = some op) : i ≠ op.target := by
    rintro rfl
    rw [hs.target op hop] at hslot
    cases hslot
  cases h with
  | kept h => rwa [h]
  | survived hkept => rw [hkept.slot, hslot]
  | started op _ _ _ htarget _ h => rw [h]; exact hother _ _ (htarget ▸ Store.target_ne_newest hnewest)
  | failed op hop h => rw [h]; exact hother _ _ (hwriting op hop)
  | succeeded op hop h => rw [h]; exact hother _ _ (hwriting op hop)

/-- Settles O57: of the store, which the invariant is about, a step leaves what its command can. -/
theorem everyStepKeepsTheNewestImage : Obligations.EveryStepKeepsTheNewestImage := by
  intro s t hs h
  have hok := s.storeOk_iff.1 hs
  have hchanges : StoreChanges s.store t.store := by
    unfold step at h
    split at h
    case h_1 => cases h; exact .kept rfl
    case h_2 rest _ => exact exec_storeChanges (s := { s with pending := rest }) h
  exact ⟨t.storeOk_iff.2 (hchanges.keepsOk hok), fun i g image => hchanges.keepsNewest hok⟩

end Sys2Proof.Machine

/-! ## Supply, RESET_N and the start-up load (R174 to R176) -/

namespace Sys2Proof.Machine

/-! ### The relay that does not run (R174) -/

section Held
variable {s : State} (hheld : s.phase ≠ .running)
include hheld

theorem State.whenMgt_held (takes : Byte → Bool) (f : Mgt → State → State) : s.whenMgt takes f = .next s :=
  State.whenRunning_held hheld _

theorem State.whenOp_held (code : Byte) (len : Nat) (f : Mgt → State → State) :
    s.whenOp code len f = .next s := State.whenMgt_held hheld _ _

theorem State.storeOperation_held (kind : StoreKind) : s.storeOperation kind = .next s :=
  State.whenOp_held hheld _ _ _

theorem State.whenRestarting_held (due : RestartRun → Bool) (f : RestartRun → State → State) :
    s.whenRestarting due f = .next s := State.whenRunning_held hheld _

end Held

/-- Settles O2: but for the five start commands, every command is a happening of the running relay. -/
theorem heldRelayTakesNothing : Obligations.HeldRelayTakesNothing := by
  intro c s hc hheld
  cases c with
  | powerOn | powerFail | resetNFall | pinReset | startUpLoadEnd => cases hc
  | unknownOp | echo =>
    simp only [exec]
    exact State.whenMgt_held hheld _ _
  | commit | setLock | eraseProtected =>
    simp only [exec]
    exact State.storeOperation_held hheld _
  | restartHoldAndLeasePart | restartTransactionPart | restartNoticePart | restartAnswer =>
    simp only [exec]
    exact State.whenRestarting_held hheld _ _
  | sessionOpen | sessionClose | readConfig | stageConfig | stageAdd | stageModify | stageDelete | listRead
  | apply | discard | readEntry | readBucket | readStation | readCounters | clearCounters | leaseTake
  | leaseRenew | leaseRelease | leaseStatus | noticeAck | setMode | readStore | restart =>
    simp only [exec]
    exact State.whenOp_held hheld _ _ _
  | _ =>
    simp only [exec]
    exact State.whenRunning_held hheld _

/-! ### The supply and RESET_N (R174, Table 10-5) -/

/-- Outside the running relay every transmit line is high (R18, R174). -/
theorem State.txLevel_held {s : State} (hheld : s.phase ≠ .running) (l : Line) : s.txLevel l = true := by
  unfold State.txLevel
  split
  case h_1 hrun => exact absurd hrun hheld
  case h_2 hrun => exact absurd hrun hheld
  all_goals rfl

/-- Of a station record only the totals outlive a fall of RESET_N (Table 10-5). -/
theorem State.lost_station (s : State) (n : Nat) :
    s.lost.station n = { s.station n with state := .idle, streak := 0, hold := none } :=
  State.station_of_map (f := Station.returned) rfl rfl n

/-- Settles O4: by the supply and RESET_N before each of the four commands. -/
theorem supplyAndResetPin : Obligations.SupplyAndResetPin := by
  intro s
  refine ⟨fun hsupply hreset => ?on, fun hsupply hreset => ?onHeld, fun hsupply => ?fail,
    fun hsupply hreset => ?fallDark, fun hsupply hreset => ?fall, fun fell hreset hsupply => ?rise,
    fun fell hreset hsupply => ?riseDark⟩
  case on => simp [exec, execPowerOn, hsupply, hreset]
  case onHeld => simp [exec, execPowerOn, hsupply, hreset]
  case fail =>
    refine ⟨{ s.lost.clearKept with supply := false, supplyLost := true },
      by simp [exec, execPowerFail, hsupply], rfl, rfl, rfl, rfl, rfl, rfl, rfl, rfl, rfl, rfl, rfl, ?_, rfl,
      rfl, rfl, rfl, rfl, ?_, ?_, rfl⟩
    · exact State.station_of_fresh rfl
    · exact State.lease_of_free rfl
    · exact State.txLevel_held nofun
  case fallDark => simp [exec, execResetNFall, hsupply, hreset]
  case fall =>
    refine ⟨{ s.lost with resetLow := some s.now }, by simp [exec, execResetNFall, hsupply, hreset], rfl, rfl,
      hsupply, rfl, rfl, rfl, rfl, ?_, rfl, rfl, rfl, rfl, rfl, ?_, ?_, rfl⟩
    · exact s.lost_station
    · exact State.lease_of_free rfl
    · exact State.txLevel_held nofun
  case rise => simp [exec, execPinReset, hreset, hsupply, State.reach]
  case riseDark => simp [exec, execPinReset, hreset, hsupply, State.reach]

/-! ### The image that a load selects (R175) -/

/-- The table of an image, way by way, with every hit count 0 (R47). -/
theorem Table.withoutHits_get (t : Table) (b : Fin 128) (w : Fin 4) :
    t.withoutHits[b][w] = (t[b][w]).map fun e => { e with hits := 0 } := by
  rw [Table.withoutHits, Table.mapEntries_get, Option.map_eq_bind]
  rfl

theorem Table.withoutHits_blank : Table.blank.withoutHits = .blank := by
  simp [Table.withoutHits, Table.mapEntries, Table.blank]

section Select
variable {st : Store}

theorem Store.select_of_newest {i : Fin 2} {g : Nat} {image : Image} (h : st.newest = some (i, g, image)) :
    st.select.slot = some i ∧ st.select.image = image := by
  simp [Store.select, h]

theorem Store.select_of_none (h : st.newest = none) : st.select.slot = none ∧ st.select.image = .blank := by
  simp [Store.select, h]

/-- The fallback mark: some slot is WRITING (R175). -/
theorem Store.select_fallback (st : Store) :
    st.select.fallback = true ↔ st.slot0 = .writing ∨ st.slot1 = .writing := by
  unfold Store.select
  split <;> simp

end Select

/-! ### The relay at the end of a load (R176) -/

/-- A request on both ports reaches the output units and the notice states, and nothing else. -/
theorem State.requestBoth_frame (s : State) (f : NoticeFlag) (d : Detail) :
    ∃ o n, s.requestBoth f d = { s with outputs := o, notices := n } := by
  obtain ⟨oa, na, ha⟩ := s.request_frame f d .a
  obtain ⟨ob, nb, hb⟩ := (s.request f d .a).request_frame f d .b
  exact ⟨ob, nb, by rw [State.requestBoth, hb, ha]⟩

/-- What STARTED leaves at a port with no flag pending and an empty output unit (R135, R137, R141). -/
def State.ToldOfStart (t : State) (cause : StartCause) (slot : Option (Fin 2)) (fallback : Bool)
    (p : Port) : Prop :=
  let told : NoticeState := ⟨0x200, 0, 0, cause, slot, fallback, none, 0⟩
  if (t.settings.noticeMask.get p).getLsbD 9 then
    t.notice p = { told with timer := some (t.now + 32000 * t.settings.noticeRepeat), seq := 1 }
      ∧ ∃ ntc, t.output p = ⟨0, 0, [], [], [ntc], false, some ⟨.event, ntc, t.now⟩, 0⟩
  else t.notice p = told ∧ t.output p = .empty

/-- STARTED raised where nothing is pending (R135, R141). -/
theorem NoticeState.quiet_started (cause : StartCause) (slot : Option (Fin 2)) (fallback : Bool) :
    (NoticeState.quiet.note (.start cause slot fallback)).raise .started
      = ⟨0x200, 0, 0, cause, slot, fallback, none, 0⟩ := by
  have hflag : (0 : BitVec 10) ||| BitVec.twoPow 10 NoticeFlag.started.bit = 0x200 := by decide
  simp only [NoticeState.raise, NoticeState.note, NoticeState.quiet, hflag]

theorem OutputUnit.placeEvent_empty (now : Nat) (t : Telegram) :
    OutputUnit.empty.placeEvent now t = ⟨0, 0, [], [], [t], false, some ⟨.event, t, now⟩, 0⟩ := rfl

section Started
variable {s : State} (cause : StartCause) (slot : Option (Fin 2)) (fallback : Bool)

theorem State.toldOfStart_request {p : Port} (hnotice : s.notice p = .quiet) (houtput : s.output p = .empty) :
    (s.request .started (.start cause slot fallback) p).ToldOfStart cause slot fallback p := by
  have hclear : (s.notice p).flags.getLsbD NoticeFlag.started.bit = false := by rw [hnotice]; rfl
  unfold State.ToldOfStart
  dsimp only
  rw [State.request_settings, State.request_now, State.request_of_clear _ hclear, hnotice,
    NoticeState.quiet_started, show NoticeFlag.started.bit = 9 from rfl]
  split
  case isTrue henabled =>
    have hshown := NoticeState.raise_announced (n := NoticeState.quiet.note (.start cause slot fallback))
      (f := .started) henabled
    rw [NoticeState.quiet_started] at hshown
    rw [State.offerNtc_of_room (by rwa [State.notice_withNotice_same]) (by
      rw [State.output_withNotice, houtput]
      decide)]
    simp only [State.notice_withNotice_same, State.output_withNotice, State.repeating]
    rw [houtput, OutputUnit.placeEvent_empty]
    exact ⟨rfl, _, State.output_withOutput_same ..⟩
  case isFalse => exact ⟨State.notice_withNotice_same .., (State.output_withNotice ..).trans houtput⟩

/-- What a port was told of the start stays when the other port is told. -/
theorem State.ToldOfStart.request_other {p : Port} (h : s.ToldOfStart cause slot fallback p) (f : NoticeFlag)
    (d : Detail) : (s.request f d p.other).ToldOfStart cause slot fallback p := by
  obtain ⟨_, _, _, _, _, houtput, hnotice, _⟩ := s.request_keeps f d p.other
  rw [Port.other_other] at houtput hnotice
  unfold State.ToldOfStart at h ⊢
  rwa [State.request_settings, State.request_now, houtput, hnotice]

theorem State.toldOfStart_requestBoth (hnotices : s.notices = .both .quiet)
    (houtputs : s.outputs = .both .empty) (p : Port) :
    (s.requestBoth .started (.start cause slot fallback)).ToldOfStart cause slot fallback p := by
  have hnotice (q : Port) : s.notice q = .quiet := by rw [State.notice, hnotices, PerPort.get_both]
  have houtput (q : Port) : s.output q = .empty := by rw [State.output, houtputs, PerPort.get_both]
  obtain ⟨_, _, _, _, _, hkeptOutput, hkeptNotice, _⟩ :=
    s.request_keeps .started (.start cause slot fallback) .a
  cases p with
  | a => exact (State.toldOfStart_request cause slot fallback (hnotice .a) (houtput .a)).request_other ..
  | b =>
    exact State.toldOfStart_request cause slot fallback (hkeptNotice.trans (hnotice .b))
      (hkeptOutput.trans (houtput .b))

end Started

/-- The end of a start-up load: what the kind of start keeps stands in four fields, and STARTED reaches the
output units and the notice states (R176, Table 10-5). -/
theorem State.startUp_frame (s : State) (cause : StartCause) :
    ∃ o n, s.startUp cause = { s.loaded .restart s.store.select.image with
      stations := (s.keptBy cause).stations
      counters := (s.keptBy cause).counters
      fieldCounters := (s.keptBy cause).fieldCounters
      store := (s.keptBy cause).store
      outputs := o
      notices := n } := by
  obtain ⟨o, n, h⟩ := (s.loaded cause s.store.select.image).requestBoth_frame .started
    (.start cause s.store.select.slot s.store.select.fallback)
  refine ⟨o, n, h.trans ?_⟩
  cases cause <;> rfl

theorem State.keptBy_survives (s : State) (cause : StartCause) : s.store.Survives (s.keptBy cause).store := by
  cases cause <;> exact ⟨rfl, rfl, rfl⟩

/-- Power-on keeps nothing of a station record, pin reset its totals (Table 10-5). -/
theorem State.keptBy_station (s : State) (cause : StartCause) (n : Nat) : (s.keptBy cause).station n
    = match cause with
      | .powerOn => .fresh
      | .pin | .restart => { s.station n with state := .idle, streak := 0, hold := none } := by
  cases cause with
  | powerOn => exact State.station_of_fresh rfl n
  | pin | restart => exact s.lost_station n

theorem State.startUp_toldOfStart (s : State) (cause : StartCause) (p : Port) :
    (s.startUp cause).ToldOfStart cause s.store.select.slot s.store.select.fallback p :=
  State.toldOfStart_requestBoth _ _ _ (by cases cause <;> rfl) (by cases cause <;> rfl) p

/-- Whether or not STARTED is enabled at the port. -/
theorem State.ToldOfStart.notice {t : State} {cause : StartCause} {slot : Option (Fin 2)} {fallback : Bool}
    {p : Port} (h : t.ToldOfStart cause slot fallback p) :
    (t.notice p).flags = 0x200 ∧ (t.notice p).station = 0 ∧ (t.notice p).group = 0
      ∧ (t.notice p).cause = cause ∧ (t.notice p).startSlot = slot ∧ (t.notice p).fallback = fallback := by
  unfold State.ToldOfStart at h
  dsimp only at h
  split at h
  all_goals
    rw [h.1]
    exact ⟨rfl, rfl, rfl, rfl, rfl, rfl⟩

theorem State.ToldOfStart.output {t : State} {cause : StartCause} {slot : Option (Fin 2)} {fallback : Bool}
    {p : Port} (h : t.ToldOfStart cause slot fallback p) :
    (t.output p).answers = [] ∧ (t.output p).reserved = 0 ∧ (t.output p).gap = false
      ∧ (t.output p).answerRun = 0 ∧ (t.output p).handed = [] ∧ (t.output p).handedBack = 0 := by
  unfold State.ToldOfStart at h
  dsimp only at h
  split at h
  · obtain ⟨_, ntc, h⟩ := h
    rw [h]
    exact ⟨rfl, rfl, rfl, rfl, rfl, rfl⟩
  · rw [h.2]
    exact ⟨rfl, rfl, rfl, rfl, rfl, rfl⟩

theorem PerLine.get_all {α : Type} (v : α) (l : Line) : (PerLine.all v).get l = v := by
  rcases l with (_ | _) | _ <;> rfl

/-- Settles O5: the fields of the loaded relay, with what the kind of start keeps and what STARTED leaves at
each port. -/
theorem startUpLoadEnds : Obligations.StartUpLoadEnds := by
  intro s cause hphase _
  have hkept := s.keptBy_survives cause
  have hstartSlot (p : Port) : ((s.startUp cause).notice p).startSlot = s.store.select.slot := by
    obtain ⟨_, _, _, _, hslot, _⟩ := (s.startUp_toldOfStart cause p).notice
    exact hslot
  have htold := s.startUp_toldOfStart cause
  obtain ⟨o, n, hframe⟩ := s.startUp_frame cause
  have hstation (n : Nat) : (s.startUp cause).station n = (s.keptBy cause).station n := by rw [hframe]; rfl
  refine ⟨s.startUp cause, by simp only [exec, execStartUpLoadEnd, hphase], hframe ▸ rfl,
    fun i g image hnewest => ?image, fun hnewest => ?blank, hframe ▸ rfl, hframe ▸ rfl,
    hframe ▸ rfl, hframe ▸ rfl, hframe ▸ rfl, ?meters, ?rx, ?links, ?leases,
    hframe ▸ rfl, hframe ▸ rfl, hframe ▸ rfl, hframe ▸ rfl, hframe ▸ rfl,
    ?handed, ?waiting, hframe ▸ rfl, hframe ▸ rfl, hframe ▸ rfl, hframe ▸ rfl,
    hframe ▸ rfl, ?slot0, ?slot1, ?op, ?idle, ?pin, ?powerOn, ?units, ?told⟩
  case image =>
    obtain ⟨hslot, himage⟩ := Store.select_of_newest hnewest
    refine ⟨?_, ?_, fun b w => ?_, fun p => (hstartSlot p).trans hslot⟩
    · rw [hframe, ← himage]; rfl
    · rw [hframe, ← himage]; rfl
    · rw [hframe, ← himage, ← Table.withoutHits_get]; rfl
  case blank =>
    obtain ⟨hslot, himage⟩ := Store.select_of_none hnewest
    refine ⟨?_, ?_, ?_, fun p => (hstartSlot p).trans hslot⟩
    · rw [hframe, himage]; rfl
    · rw [hframe, himage]; rfl
    · rw [hframe, himage]; exact Table.withoutHits_blank
  case meters => rw [hframe]; exact metersFor_get _
  case rx => intro l; rw [hframe]; exact congrArg Receiver.assembly (PerLine.get_all _ l)
  case links => intro p; rw [hframe]; exact PerPort.get_both _ p
  case leases => exact State.lease_of_free (by rw [hframe]; rfl)
  case handed =>
    intro p
    obtain ⟨_, _, _, _, hhanded, hback⟩ := (htold p).output
    exact ⟨hhanded, hback⟩
  case waiting =>
    intro p
    rw [hframe]
    exact ⟨PerPort.get_both _ p, PerPort.get_both _ p, PerPort.get_both _ p, PerPort.get_both _ p⟩
  case slot0 => rw [hframe]; exact hkept.slot0
  case slot1 => rw [hframe]; exact hkept.slot1
  case op => rw [hframe]; exact hkept.idle
  case idle =>
    intro n
    rw [hstation, State.keptBy_station]
    cases cause <;> exact ⟨rfl, rfl, rfl⟩
  case pin =>
    rintro rfl
    refine ⟨hframe ▸ rfl, hframe ▸ rfl, hframe ▸ rfl, hframe ▸ rfl, fun n => ?_⟩
    rw [hstation, State.keptBy_station]
    exact ⟨rfl, rfl⟩
  case powerOn =>
    rintro rfl
    exact ⟨hframe ▸ rfl, hframe ▸ rfl, hframe ▸ rfl, hframe ▸ rfl,
      fun n => (hstation n).trans (s.keptBy_station .powerOn n)⟩
  case units =>
    intro p
    obtain ⟨hanswers, hreserved, hgap, hrun, _, _⟩ := (htold p).output
    obtain ⟨hflags, hstation, hgroup, hcause, _, hfallback⟩ := (htold p).notice
    exact ⟨hanswers, hreserved, hgap, hrun, hflags, hstation, hgroup, hcause,
      by rw [hfallback]; exact s.store.select_fallback⟩
  case told =>
    intro p
    have h := htold p
    unfold State.ToldOfStart at h
    dsimp only at h
    split at h
    case isTrue henabled =>
      obtain ⟨hnotice, ntc, houtput⟩ := h
      rw [if_pos henabled, hnotice, houtput]
      exact ⟨rfl, rfl, rfl, rfl⟩
    case isFalse hmasked =>
      obtain ⟨hnotice, houtput⟩ := h
      rw [if_neg hmasked, hnotice, houtput]
      exact ⟨rfl, rfl, rfl, rfl⟩

end Sys2Proof.Machine

/-! ## The store operations (R166 to R170) -/

namespace Sys2Proof.Machine

/-! ### The slots and the image of an operation -/

/-- The table without its protected entries, way by way (R52). -/
theorem Table.withoutProtected_get (t : Table) (b : Fin 128) (w : Fin 4) :
    t.withoutProtected[b][w] = (t[b][w]).bind fun e => if e.prot then none else some e := by
  rw [Table.withoutProtected, Table.mapEntries_get]

/-- The table of the image, way by way (Table 10-3). -/
theorem State.imageSource_get (s : State) (kind : StoreKind) (b : Fin 128) (w : Fin 4) :
    (s.imageSource kind).table[b][w] = (s.table[b][w]).bind fun e =>
      if kind = .eraseProtected ∧ e.prot = true then none else some { e with hits := 0 } := by
  have hkept (hkind : kind ≠ .eraseProtected) : s.table.withoutHits[b][w] = (s.table[b][w]).bind fun e =>
      if kind = .eraseProtected ∧ e.prot = true then none else some { e with hits := 0 } := by
    rw [Table.withoutHits_get, Option.map_eq_bind]
    refine congrArg _ (funext fun e => ?_)
    rw [if_neg fun h => hkind h.1]
    rfl
  cases kind with
  | commit => exact hkept nofun
  | setLock => exact hkept nofun
  | eraseProtected =>
    rw [State.imageSource, Table.withoutHits_get, Table.withoutProtected_get]
    cases s.table[b][w] with
    | none => rfl
    | some e => cases hprot : e.prot <;> simp [hprot]

/-- The target and the generation, by the newest image (R167). -/
theorem Store.target_and_generation {st : Store} {i : Fin 2} {g : Nat} {image : Image}
    (h : st.newest = some (i, g, image)) : st.target ≠ i ∧ st.nextGeneration = g + 1 :=
  ⟨(Store.target_ne_newest h).symm, by rw [Store.nextGeneration, h]⟩

theorem Store.target_and_generation_of_none {st : Store} (h : st.newest = none) :
    st.target = 0 ∧ st.nextGeneration = 1 :=
  ⟨by rw [Store.target, h], by rw [Store.nextGeneration, h]⟩

/-! ### The judgement and the start (R166, R167) -/

/-- The operation that starts, as it is recorded (R167). -/
theorem State.startStore_eq (s : State) (m : Mgt) (kind : StoreKind) :
    s.startStore m kind = { s with
      slots := s.slots.tail
      store := { s.store with
        slot0 := if s.store.target = 0 then .writing else s.store.slot0
        slot1 := if s.store.target = 1 then .writing else s.store.slot1
        op := some ⟨kind, s.store.target, s.store.nextGeneration, m.port, m.source, m.tag,
          s.imageSource kind, s.now + 48000000⟩ } } := by
  simp only [State.startStore, Store.withSlot_eq]
  rfl

/-- A store operation of the owner is refused or started. -/
theorem State.storeOperation_judged {s : State} {m : Mgt} {x : Session} {kind : StoreKind} (h : s.Executes m)
    (ho : s.Owns m x) (hc : m.code = kind.opCode) (hd : m.data = []) :
    s.storeOperation kind = .next ((s.storeRefusal x kind).elim (s.startStore m kind)
      fun st => s.answered m st.code []) := by
  have hl : m.data.length = 0 := by rw [hd]; rfl
  rw [State.storeOperation, State.whenOp_owner h ho hc hl]
  cases s.storeRefusal x kind <;> rfl

/-- Settles O47: the checks in order, and the record of the operation that passes them. `h2` to `h7` are the
checks by their numbers in Table 10-2. -/
theorem storeOperationIsJudgedAndStarted : Obligations.StoreOperationIsJudgedAndStarted := by
  intro s m x c kind h ho hd hkind busy faulted waits locked wrong spent
  obtain ⟨hcode, hexec⟩ : m.code = kind.opCode ∧ exec c s = s.storeOperation kind := by
    rcases hkind with ⟨hc, rfl, rfl⟩ | ⟨hc, rfl, rfl⟩ | ⟨hc, rfl, rfl⟩ <;> exact ⟨hc, rfl⟩
  rw [hexec, State.storeOperation_judged h ho hcode hd, State.storeRefusal_eq]
  refine ⟨fun h2 => ?_, fun h2 h3 => ?_, fun h2 h3 h4 => ?_, fun h2 h3 h4 h5 => ?_, fun h2 h3 h4 h5 h6 => ?_,
    fun h2 h3 h4 h5 h6 h7 => ?_, fun h2 h3 h4 h5 h6 h7 => ?_⟩
  · rw [if_pos h2]; rfl
  · rw [if_neg h2, if_pos h3]; rfl
  · rw [if_neg h2, if_neg h3, if_pos h4]; rfl
  · rw [if_neg h2, if_neg h3, if_neg h4, if_pos h5]; rfl
  · rw [if_neg h2, if_neg h3, if_neg h4, if_neg h5, if_pos h6]; rfl
  · rw [if_neg h2, if_neg h3, if_neg h4, if_neg h5, if_neg h6, if_pos (s.store.spent_iff.2 h7)]; rfl
  · refine ⟨s.store.target, s.store.nextGeneration, (s.imageSource kind).table,
      fun i g image => Store.target_and_generation, Store.target_and_generation_of_none, fun b w => ?_, ?_⟩
    · rw [State.imageSource_get]
      cases s.table[b][w] <;> rfl
    · rw [if_neg h2, if_neg h3, if_neg h4, if_neg h5, if_neg h6, if_neg (mt s.store.spent_iff.1 h7)]
      rw [Option.elim_none, State.startStore_eq]
      cases kind <;> rfl

/-! ### The ends of an operation (R168 to R170) -/

/-- The MGA of an operation and its notice at both ports, in some order (R128, R169, R170). -/
theorem State.storeReport_taken (s : State) (op : StoreOp) (st : MgtStatus) (data : List Byte)
    (f : NoticeFlag) :
    s.TakenInSomeOrder [State.answer op.port [mga op.source op.tag op.kind.opCode st data],
      State.request f .nothing .a, State.request f .nothing .b] (s.storeReport op st data f) := by
  have hblind : ∀ claim ∈ [State.answer op.port [mga op.source op.tag op.kind.opCode st data],
      State.request f .nothing op.port], BlindToChoices claim := by
    refine List.forall_mem_cons.2 ⟨fun u n => u.answer_choices_comm _ _ n, ?_⟩
    exact List.forall_mem_singleton.2 fun u n => u.request_choices_comm f .nothing op.port n
  have hall := (s.inSomeOrder_taken _).append
    (State.inSomeOrder_taken _ [State.request f .nothing op.port.other]) hblind
  refine hall.perm (.cons _ ?_)
  cases op.port
  · exact .refl _
  · exact .swap _ _ _

theorem Session.downgraded_eq :
    Session.downgraded = fun x => if x.role = .integrator then { x with role := .operator, list := [] } else x := by
  funext x
  unfold Session.downgraded
  split <;> simp [*]

theorem State.TakenInSomeOrder.of_eq {s s' t : State} {claims claims' : List (State → State)}
    (h : s.TakenInSomeOrder claims t) (hs : s = s') (hclaims : claims = claims') :
    s'.TakenInSomeOrder claims' t := hs ▸ hclaims ▸ h

/-- Settles O48: the effect of each kind, then the MGA and the notices. -/
theorem storeOperationSucceeds : Obligations.StoreOperationSucceeds := by
  intro s op hrun hop code
  refine ⟨s.storeSuccess op, (s.storeEffect op.kind).table, ?exec, fun hkind => ?table,
    fun hkind b w => ?erased, (State.storeReport_taken ..).of_eq ?state ?claims⟩
  case exec => simp only [exec, execStoreWriteEnd, State.whenRunning_running hrun, hop]
  case table =>
    cases hk : op.kind with
    | commit => rfl
    | setLock => rfl
    | eraseProtected => exact absurd hk hkind
  case erased =>
    rw [hkind, State.storeEffect, Table.withoutProtected_get]
    cases s.table[b][w] <;> rfl
  case state =>
    rw [Store.withSlot_eq]
    cases op.kind with
    | commit => rfl
    | setLock => rw [State.storeEffect, Session.downgraded_eq]; rfl
    | eraseProtected => rfl
  case claims =>
    dsimp only [code]
    cases op.kind <;> rfl

theorem State.storeFailure_taken (s : State) (op : StoreOp) (cause : Byte) :
    State.TakenInSomeOrder { s with
        store := { s.store with
          slot0 := if op.target = 0 then .erased else s.store.slot0
          slot1 := if op.target = 1 then .erased else s.store.slot1
          op := none, failures := s.store.failures + 1
          faulted := if 3 ≤ s.store.failures + 1 then true else s.store.faulted } }
      [State.answer op.port [mga op.source op.tag op.kind.opCode .storeFailed [byteOf op.target.val, cause]],
        State.request .storeFailed .nothing .a, State.request .storeFailed .nothing .b]
      (s.storeFailure op cause) := by
  refine (State.storeReport_taken ..).of_eq ?_ rfl
  have hfaulted : (s.store.faulted || decide (3 ≤ s.store.failures + 1))
      = if 3 ≤ s.store.failures + 1 then true else s.store.faulted := by
    split <;> simp [*]
  rw [Store.withSlot_eq, hfaulted]

/-- Settles O49: the target erased and the failure counted, then the MGA and the notices. -/
theorem storeOperationFails : Obligations.StoreOperationFails := by
  intro s op c cause hrun hop hc code
  have hcode : op.kind.opCode = code := by
    dsimp only [code]
    cases op.kind <;> rfl
  rw [← hcode]
  rcases hc with ⟨rfl, rfl⟩ | ⟨rfl, rfl⟩
  · refine ⟨s.storeFailure op 2, ?_, s.storeFailure_taken op 2⟩
    simp only [exec, execStoreWriteEnd, State.whenRunning_running hrun, hop]
  · refine ⟨(s.reach op.limit).storeFailure op 1, ?_, (s.reach op.limit).storeFailure_taken op 1⟩
    simp only [exec, execStoreLimitExpiry, State.whenRunning_running hrun, hop]

end Sys2Proof.Machine

/-! ## RESTART (R177 to R179) -/

namespace Sys2Proof.Machine

/-! ### The reload (R177) -/

/-- RESTART of the owner is BUSY or reloads (R177). -/
theorem restart_judged {s : State} {m : Mgt} {x : Session} (h : s.Executes m) (ho : s.Owns m x)
    (hc : m.code = 0x1A) (hd : m.data = []) :
    exec .restart s = .next (if s.store.op.isSome = true then s.answered m 0x95 [] else s.reload) := by
  have hl : m.data.length = 0 := by rw [hd]; rfl
  simp only [exec, execRestart, State.whenOp_owner h ho hc hl]
  rfl

/-- Settles O50: BUSY, or the reload of the selected image. -/
theorem restartReloads : Obligations.RestartReloads := by
  intro s m x h ho hc hd done
  rw [restart_judged h ho hc hd]
  refine ⟨fun hop => by rw [if_pos (Option.isSome_iff_ne_none.2 hop)], fun hop => ?_⟩
  refine ⟨s.reload, ⟨s.store.select.slot, s.store.select.fallback, false, false, .both false⟩,
    by rw [if_neg (by rw [hop]; exact Bool.false_ne_true)], fun i g image hnewest => ?image,
    fun hnewest => ?blank, s.store.select_fallback, rfl, rfl, rfl, ?frame⟩
  case image =>
    obtain ⟨hslot, himage⟩ := Store.select_of_newest hnewest
    refine ⟨congrArg Image.settings himage, congrArg Image.lock himage, hslot, fun b w => ?_⟩
    rw [← himage, ← Table.withoutHits_get]
    rfl
  case blank =>
    obtain ⟨hslot, himage⟩ := Store.select_of_none hnewest
    refine ⟨congrArg Image.settings himage, congrArg Image.lock himage, hslot, ?_⟩
    rw [← Table.withoutHits_blank]
    exact congrArg (fun image : Image => image.table.withoutHits) himage
  case frame =>
    rw [← s.keepClasses_eq]
    rfl

/-! ### The parts of a RESTART (R178) -/

/-- A part of the RESTART that runs is taken while it is due. -/
theorem State.whenRestarting_running {s : State} {r : RestartRun} (hrun : s.phase = .running)
    (hr : s.restart = some r) (due : RestartRun → Bool) (f : RestartRun → State → State) :
    s.whenRestarting due f = .next (if due r = true then f r s else s) := by
  simp only [State.whenRestarting, State.whenRunning_running hrun, hr]

/-- All the parts have been taken (R179). -/
theorem RestartRun.complete_iff (r : RestartRun) : r.complete = true
    ↔ r.holdDone = true ∧ r.transactionDone = true ∧ ∀ p, r.noticeDone.get p = true := by
  have hports : (∀ p, r.noticeDone.get p = true) ↔ r.noticeDone.a = true ∧ r.noticeDone.b = true :=
    ⟨fun h => ⟨h .a, h .b⟩, fun ⟨ha, hb⟩ p => by cases p <;> assumption⟩
  simp only [RestartRun.complete, Bool.and_eq_true, hports, and_assoc]

/-- A mask change starts the repeat timer of a port that announces with it stopped (R139). -/
theorem State.maskChange_eq (s : State) (p : Port) : s.maskChange p
    = if (s.notice p).flags &&& s.settings.noticeMask.get p ≠ 0 ∧ (s.notice p).timer = none
      then s.withNotice p (s.repeating p) else s := by
  simp only [State.maskChange, Bool.and_eq_true, State.announces_iff, Option.isNone_iff_eq_none,
    State.startRepeat_eq]

/-- Settles O51: each part is due until it is taken, and the answer once all are. -/
theorem restartPartsAreTakenAndAnswered : Obligations.RestartPartsAreTakenAndAnswered := by
  intro s r hrun hr heldRun entryRun
  have hdrop (u : State) : u.dropHeld (fun _ => true) = { u with held := [] } := by
    simp [State.dropHeld]
  have hheldRun (p : Port) : purgeRun s.held (fun _ => true) .aborted p = heldRun p := by
    simp only [purgeRun, Bool.true_and]
    rfl
  have htaking := State.whenRestarting_running hrun hr
  refine ⟨fun htaken => ?holdTaken, fun hdue => ?hold, fun htaken => ?transactionTaken,
    fun hdue => ?transaction, fun p htaken => ?noticeTaken, fun p hdue => ?notice, fun hwaits => ?early,
    fun m hhold htransaction hnotice hslot => ?answer⟩
  case holdTaken => simp [exec, execRestartHoldAndLeasePart, htaking, htaken]
  case hold =>
    refine ⟨metersFor s.settings, metersFor_get _, ?_⟩
    simp only [exec, execRestartHoldAndLeasePart, htaking, hdue, State.purge_eq, hdrop, hheldRun]
    rfl
  case transactionTaken => simp [exec, execRestartTransactionPart, htaking, htaken]
  case transaction =>
    refine ⟨s.stations.map Station.returned, State.station_of_map (f := Station.returned) rfl rfl, ?_⟩
    simp only [exec, execRestartTransactionPart, htaking, hdue, State.inSomeOrder_runClaim]
    rfl
  case noticeTaken => simp [exec, execRestartNoticePart, htaking, htaken]
  case notice =>
    intro told n stopped
    have hexec : exec (.restartNoticePart p) s = .next (told.maskChange p) := by
      simp only [exec, execRestartNoticePart, htaking, hdue]
      rfl
    have hsettings : told.settings = s.settings := State.request_settings ..
    have hnow : told.now = s.now := State.request_now ..
    rw [hexec, State.maskChange_eq, State.repeating, hsettings, hnow]
    exact ⟨fun hstopped => by rw [if_pos hstopped], fun hruns => by rw [if_neg hruns]⟩
  case early => simp only [exec, execRestartAnswer, htaking, if_neg (mt r.complete_iff.1 hwaits)]
  case answer =>
    obtain ⟨more, hslots⟩ := List.head?_eq_some_iff.1 hslot
    have hcomplete := r.complete_iff.2 ⟨hhold, htransaction, hnotice⟩
    simp only [exec, execRestartAnswer, htaking, if_pos hcomplete, hslots]
    rfl

end Sys2Proof.Machine

/-! ## The start state has every invariant (R176) -/

namespace Sys2Proof.Machine

/-- The first NTC, being sent on both ports, is the one event of an output unit that is otherwise empty (R141). -/
theorem OutputUnit.firstNtc_ok :
    OutputUnit.Ok ⟨0, 0, [], [], [.firstNtc], false, some ⟨.event, .firstNtc, 0⟩, 0⟩ where
  places := Nat.zero_le 40
  events := by decide
  answerKinds := nofun
  eventKinds := List.forall_mem_singleton.2 (.inr rfl)
  idle := nofun
  head := by rintro _ ⟨⟩; rfl
  run := Nat.zero_le 4

theorem Store.delivered_ok : Store.delivered.Ok where
  target := nofun
  newer := nofun
  width := Store.newest_none rfl _
  written := nofun
  failures := Nat.zero_le 3
  faulted := nofun
  started := nofun

theorem State.reset_answersOk : State.reset.AnswersOk where
  unit := fun p => (PerPort.get_both _ p).symm ▸ OutputUnit.firstNtc_ok
  reserved := by rintro (_ | _) <;> rfl
  slots := Nat.zero_le 2

/-- The meters are full (R76). -/
theorem State.reset_metersOk : State.reset.MetersOk :=
  State.reset.metersOk_iff.2 fun n => by
    have hmeter : State.reset.meters[n] = ⟨16, 100, 16, none⟩ := Vector.getElem_replicate n.isLt
    rw [hmeter]
    exact .full _ _

/-- Settles O59: nothing is held, leased, in transaction, staged or stored, the meters are full, and STARTED
is pending beside a repeat timer that runs. -/
theorem resetIsSound : Obligations.ResetIsSound := by
  refine ⟨State.reset.tablesOk_iff.2 .start, ⟨Nat.zero_le 40, fun _ => Nat.zero_le 24, List.nodup_nil⟩, nofun,
    .cleared rfl nofun fun n => ⟨.fresh, State.reset_station n⟩, State.reset_answersOk,
    State.reset.storeOk_iff.2 Store.delivered_ok, nofun, State.reset_metersOk, ?_⟩
  intro p _ _
  cases p <;> rfl

end Sys2Proof.Machine

/-! ## A step: the front command of the queue, or a REFCLK period (log 1, log 2) -/

namespace Sys2Proof.Machine

theorem step_of_front {s : State} {c : Instr} {rest : List Instr} (h : s.pending = c :: rest) :
    step s = exec c { s with pending := rest } := by
  rw [step, h]

/-- The choice of log 2. -/
theorem step_of_empty {s : State} (h : s.pending = []) : step s = .next s.tick := by
  rw [step, h]

/-- Settles O1: the queue is empty or has a front, and a tick moves the clock alone. -/
theorem stepRunsTheFrontCommand : Obligations.StepRunsTheFrontCommand :=
  ⟨fun _ _ _ => step_of_front, fun _ => step_of_empty⟩

end Sys2Proof.Machine
